-- ==== Sys2Proof/Word.lean ====
section
/-! DEFINITION. The words of `pulse_duration_classifier` and its bit strings (spec/00_scope.md R6, R7, R8). -/

namespace Sys2Proof

/-- One 32-bit command, response or register word (R7, R83). -/
abbrev Word := BitVec 32

/-- A duration, timestamp or timing register: `DW` = 24 bits of ticks (R6). -/
abbrev Ticks := BitVec 24

/-- A bit string: position 0 is the first bit received (R8). -/
abbrev Bits := List Bool

end Sys2Proof
end

