-- ==== Sys2Proof/Machine/Primitives.lean ====
section
/-! DEFINITION. The primitives every rule uses: bit strings and their values (spec/00_scope.md R8, R9), and the window
comparisons of the timing_window_comparator (spec/43_window_comparator.md R130). -/

namespace Sys2Proof.Machine

/-- `val(s)`: the first bit received is the most significant (R8). -/
def bitsVal (s : Bits) : Nat := s.foldl (fun acc b => 2 * acc + b.toNat) 0

/-- `bits_L(v mod 2^L)`: the string of length L whose value is `v mod 2^L`, most significant bit first (R8, R34). -/
def bitsOf : Nat → Nat → Bits
  | 0, _ => []
  | L + 1, v => v.testBit L :: bitsOf L v

/-- The half-open slice `s⟨a..b)` (R8). -/
def slice (s : Bits) (a b : Nat) : Bits := (s.drop a).take (b - a)

/-- The exact `|a − b|` of two non-negative integers (R9). -/
def absdiff (a b : Nat) : Nat := (a - b) + (b - a)

/-- `inwin(d, lo, hi)`, inclusive at both ends (R130). -/
def inWindow (d lo hi : Nat) : Bool := decide (lo ≤ d) && decide (d ≤ hi)

/-- `near(d, c, tol)`, inclusive (R130). -/
def near (d c tol : Nat) : Bool := decide (absdiff d c ≤ tol)

end Sys2Proof.Machine
end

