-- ==== Sys2Proof/Config.lean ====
section
/-! DEFINITION. The implementation parameters of spec/00_scope.md R6. The fixed ones are constants; the open ones
(N_DUR, TICK_NS) are the fields of `Config`, which State carries unchanged (log 6). LAT_* is left out (log 3). -/

namespace Sys2Proof

/-- The open parameters of R6. -/
structure Config where
  /-- `N_DUR`, the depth of DBUF and FB. -/
  nDur : Nat
  /-- `TICK_NS`, the length of one tick in nanoseconds: only the host's conversion depends on it (R220; log 15). -/
  tickNs : Nat
deriving DecidableEq, Repr

/-- The defaults of R6: N_DUR = 64, TICK_NS = 1000. -/
def Config.default : Config := { nDur := 64, tickNs := 1000 }

/-- The range R6 gives N_DUR. -/
abbrev Config.legal (c : Config) : Prop := 40 ≤ c.nDur ∧ c.nDur ≤ 127

/-- `BS_MAX`, the longest bit string BS holds (R6). -/
def Config.bsMax : Nat := 40

/-- `CAND_MAXLEN`, the longest candidate for one ambiguous run (R6). -/
def Config.candMaxLen : Nat := 3

end Sys2Proof
end

