-- ==== Sys2Proof/Machine/State.lean ====
section
/-! DEFINITION. The state of the block between steps (spec/10_state.md R53, field by field, under R53's names), its
ports (R50, spec/30_encoding.md R80, spec/70_reset_and_hazards.md R230), the ways a step could stop, and the state after reset (R231). -/

namespace Sys2Proof.Machine

/-- The symbol codes 0, 1 and 2 of R10: what `classify` answers and what FB holds. In FB `ambiguous` is the separator.
Code 3, None, occurs only as CLS's reset value (log 17). -/
inductive Symbol where
  | space | mark | ambiguous
deriving DecidableEq, Repr

/-- What the host drives on the input ports at one rising edge of `clk` (R80): `rst_n`, the offered command word
(`cmd_valid` with `cmd_data`) and `rsp_ready`. -/
structure PortEdge where
  rstN : Bool
  cmd : Option Word
  rspReady : Bool
deriving DecidableEq, Repr

/-- The state. The fields from `ctrl` to `brk` are exactly those of R53; `rsp` is R50's response state; `inReset`,
`inputs` and `cfg` are the model's own (logs 4, 1 and 6). -/
structure State where
  /-- CTRL (r0): MODE [1:0], HEXSEL [2], IE_DONE [3], IE_ERR [4] (R25). -/
  ctrl : BitVec 5
  /-- MARK_LEN (r1), R26. -/
  markLen : Ticks
  /-- SPACE_LEN (r2), R26. -/
  spaceLen : Ticks
  /-- TOL (r3), R27. -/
  tol : Ticks
  /-- FRAME_LEN (r4), R28. -/
  frameLen : BitVec 6
  /-- MINCLS (r5), R29. -/
  minCls : BitVec 8
  /-- MAXCOMB (r6), R30. -/
  maxComb : BitVec 24
  /-- START_LO (r7), R31. -/
  startLo : Ticks
  /-- START_HI (r8), R31. -/
  startHi : Ticks
  /-- RGAP0 (r9), R32. -/
  rgap0 : Ticks
  /-- RGAP1 (r10), R32. -/
  rgap1 : Ticks
  /-- RTOL (r11), R32. -/
  rtol : Ticks
  /-- BS_LO (r12), R34. -/
  bsLo : Word
  /-- BS_HI (r13), R34. -/
  bsHi : BitVec 8
  /-- BS_LEN (r14), R34. -/
  bsLen : BitVec 6
  /-- LAST_TS (r15), R33. -/
  lastTs : Ticks
  /-- STATUS.DONE, R36. -/
  done : Bool
  /-- STATUS.ERR, R36 and R211. -/
  err : Bool
  /-- STATUS.ARMED, R36 and R52: false is Idle, true is ArmedForBurst. -/
  armed : Bool
  /-- STATUS.REPEAT, R36 and R132. -/
  repeatGap : Bool
  /-- ERRCODE (r17), R37. -/
  errCode : BitVec 8
  /-- RRES (r18), R38. -/
  rres : BitVec 3
  /-- DBUF, R48: the earliest duration first (log 8). -/
  dbuf : List Ticks
  /-- FB, R49 (log 8). -/
  fb : List Symbol
  /-- NCLS (r20), R40. -/
  ncls : BitVec 7
  /-- NRUNS (r21), R40. -/
  nruns : BitVec 7
  /-- NCOMB (r22), R41. -/
  ncomb : BitVec 24
  /-- NTRIED (r23), R41. -/
  ntried : BitVec 24
  /-- VSTAT (r25), R43. -/
  vstat : BitVec 11
  /-- CSUM (r26), R44. -/
  csum : Word
  /-- CLS (r27), R45. -/
  cls : BitVec 2
  /-- BREAK (r28), R46. -/
  brk : Ticks
  /-- The response word the host has not yet taken, if one waits (R50, R82). -/
  rsp : Option Word
  /-- The last clock edge had `rst_n` = 0 (R230; log 4). -/
  inReset : Bool
  /-- What the host is about to drive at the coming edges, the next one first (log 1). -/
  inputs : List PortEdge
  /-- The implementation parameters of R6 (log 6): no step changes them. -/
  cfg : Config
deriving DecidableEq, Repr

/-- The ways a step stops with a fault: none. The block records every command error and accepts the next command as
usual (R211, R217), so no constructor is needed and none exists. -/
inductive Fault where
deriving DecidableEq, Repr

/-- The ways a step is refused. -/
inductive Refusal where
  /-- An arm of `exec` that has no meaning yet. Safe: it only stops. No arm raises it: every command has its meaning. -/
  | notModelled (mnemonic : String)
deriving DecidableEq, Repr

/-- The state after reset (R231), of a block with the default parameters (R6): idle, no response waiting, and the host
driving nothing yet. -/
def State.reset : State where
  ctrl := 0x04
  markLen := 0
  spaceLen := 0
  tol := 0
  frameLen := 0
  minCls := 10
  maxComb := 10000
  startLo := 0
  startHi := 0
  rgap0 := 0
  rgap1 := 0
  rtol := 0
  bsLo := 0
  bsHi := 0
  bsLen := 0
  lastTs := 0
  done := false
  err := false
  armed := false
  repeatGap := false
  errCode := 0
  rres := 0
  dbuf := []
  fb := []
  ncls := 0
  nruns := 0
  ncomb := 0
  ntried := 0
  vstat := 0
  csum := 0
  cls := 3
  brk := 0
  rsp := none
  inReset := false
  inputs := []
  cfg := Config.default

/-- Every command of the block goes on to a next state, a fault or a refusal. -/
abbrev Result := Host.Outcome State Fault Refusal

end Sys2Proof.Machine
end

