-- ==== Sys2Proof/Machine/Flags.lean ====
section
/-! DEFINITION. Every flag the spec computes: CTRL's fields (spec/10_state.md R25), CFGOK (spec/44_classifier.md R140),
FRAMEOK (spec/46_validator.md R180), IRQ (spec/60_exceptions.md R216), the STATUS word (R36) and VSTAT's layout (R43). -/

namespace Sys2Proof.Machine

/-- CTRL.MODE (R25). -/
inductive Mode where
  | none | nec | dht22 | reserved
deriving DecidableEq, Repr

/-- The protocols a validation can apply: the modes that FRAMEOK admits (R180). -/
inductive Protocol where
  | none | nec | dht22
deriving DecidableEq, Repr

/-- A legal frame configuration: the protocol and the length FRAME_LEN (R180). -/
structure Frame where
  protocol : Protocol
  length : Nat
deriving DecidableEq, Repr

/-- The classifier's registers as exact numbers of ticks (R26, R27; R9: arithmetic is on unbounded integers). -/
structure Timing where
  mark : Nat
  space : Nat
  tol : Nat
deriving DecidableEq, Repr

/-- CTRL[1:0] (R25). -/
def State.mode (s : State) : Mode :=
  match s.ctrl.getLsbD 1, s.ctrl.getLsbD 0 with
  | false, false => .none
  | false, true => .nec
  | true, false => .dht22
  | true, true => .reserved

/-- CTRL[2] (R25). -/
def State.hexSel (s : State) : Bool := s.ctrl.getLsbD 2

/-- CTRL[3] (R25). -/
def State.ieDone (s : State) : Bool := s.ctrl.getLsbD 3

/-- CTRL[4] (R25). -/
def State.ieErr (s : State) : Bool := s.ctrl.getLsbD 4

/-- MARK_LEN, SPACE_LEN and TOL as numbers. -/
def State.timing (s : State) : Timing := ⟨s.markLen.toNat, s.spaceLen.toNat, s.tol.toNat⟩

/-- CFGOK as a condition on the three registers (R140). -/
def Timing.ok (t : Timing) : Bool :=
  decide (1 ≤ t.space) && decide (t.space < t.mark) && decide (2 * t.tol ≤ t.mark - t.space)

/-- STATUS.CFGOK (R36, R140). -/
def State.cfgOk (s : State) : Bool := s.timing.ok

/-- The legal frame configuration MODE and FRAME_LEN name together, if they do (R180). MODE = 3 never does. -/
def State.frameConfig (s : State) : Option Frame :=
  let L := s.frameLen.toNat
  match s.mode with
  | .none => if 1 ≤ L ∧ L ≤ Config.bsMax then some ⟨.none, L⟩ else none
  | .nec => if L = 16 ∨ L = 32 then some ⟨.nec, L⟩ else none
  | .dht22 => if L = 40 then some ⟨.dht22, L⟩ else none
  | .reserved => none

/-- STATUS.FRAMEOK (R36, R180). -/
def State.frameOk (s : State) : Bool := s.frameConfig.isSome

/-- STATUS.IRQ and the level of the `irq` output (R216). It follows the state only, so R230's `irq` = 0 holds from the sampled
reset edge on (DESIGN CHOICE, log 18). -/
def State.irq (s : State) : Bool := (s.done && s.ieDone) || (s.err && s.ieErr)

/-- Bit `i` of a 32-bit word, set or not. -/
def flagBit (i : Nat) (b : Bool) : Word := if b then BitVec.twoPow 32 i else 0

/-- The STATUS word, bits 6:0 as R36 lays them out, bits 31:7 zero. -/
def State.statusWord (s : State) : Word :=
  flagBit 0 s.done ||| flagBit 1 s.err ||| flagBit 2 s.armed ||| flagBit 3 s.repeatGap
    ||| flagBit 4 s.cfgOk ||| flagBit 5 s.frameOk ||| flagBit 6 s.irq

/-- `mm0 | (mm1 << 4) | (1 << 8) | (protok << 9) | (protok << 10)` (R181, layout R43). -/
def vstatOf (mm0 mm1 : Nat) (protok : Bool) : BitVec 11 :=
  let p : BitVec 11 := BitVec.ofNat 11 protok.toNat
  BitVec.ofNat 11 mm0 ||| (BitVec.ofNat 11 mm1 <<< 4) ||| ((1 : BitVec 11) <<< 8) ||| (p <<< 9) ||| (p <<< 10)

end Sys2Proof.Machine
end

