-- ==== Sys2Proof/Syntax.lean ====
section
/-! DEFINITION. The command set of spec/30_encoding.md R83 to R86: the mnemonics, the five operand formats, the
commands with their operands, and a command as an assembler line states it (R90). -/

namespace Sys2Proof

/-- The 17 mnemonics of R86. -/
inductive Mnemonic where
  | nop | rst | clrd | clrst
  | wr | wrh | rd | rdd | rdf
  | pushd | pusht | sett
  | wincmp | classify
  | recon | val | enc
deriving DecidableEq, Repr

/-- The five operand formats of R84. -/
inductive Format where
  /-- N: no operand. -/
  | none
  /-- R: register number and 16-bit immediate. -/
  | regImm
  /-- Q: register number. -/
  | query
  /-- I: buffer index. -/
  | index
  /-- D: 24-bit duration or timestamp. -/
  | data
deriving DecidableEq, Repr

/-- The format column of R86. -/
def Mnemonic.format : Mnemonic → Format
  | .nop => .none | .rst => .none | .clrd => .none | .clrst => .none
  | .wr => .regImm | .wrh => .regImm
  | .rd => .query
  | .rdd => .index | .rdf => .index
  | .pushd => .data | .pusht => .data | .sett => .data
  | .wincmp => .data | .classify => .data
  | .recon => .none | .val => .none | .enc => .none

/-- A decoded command: one constructor per row of spec/opcode_table.json, its operands of the widths of R85. -/
inductive Instr where
  /-- NOP (R100). -/
  | nop
  /-- RST, soft reset (R101). -/
  | rst
  /-- CLRD, clear the duration buffer (R102). -/
  | clrd
  /-- CLRST, clear status (R103). -/
  | clrst
  /-- WR, write a register's low half (R110). -/
  | wr (r : BitVec 6) (imm16 : BitVec 16)
  /-- WRH, write a register's high half (R111). -/
  | wrh (r : BitVec 6) (imm16 : BitVec 16)
  /-- RD, read a register (R112). -/
  | rd (r : BitVec 6)
  /-- RDD, read one element of the duration buffer (R113). -/
  | rdd (x : BitVec 7)
  /-- RDF, read one element of the fallback buffer (R114). -/
  | rdf (x : BitVec 7)
  /-- PUSHD, append a duration (R120). -/
  | pushd (d : Ticks)
  /-- PUSHT, append the duration since the previous edge timestamp (R121). -/
  | pusht (t : Ticks)
  /-- SETT, set the start marker (R122). -/
  | sett (t : Ticks)
  /-- WINCMP, present one duration to the start detector (R131). -/
  | wincmp (d : Ticks)
  /-- CLASS, classify one duration (R144). -/
  | classify (d : Ticks)
  /-- RECON, reconstruct a frame from DBUF (R169). -/
  | recon
  /-- VAL, validate the bit string in BS (R185). -/
  | val
  /-- ENC, encode BS into the duration buffer (R197). -/
  | enc
deriving DecidableEq, Repr

/-- The mnemonic of a command. -/
def Instr.mnemonic : Instr → Mnemonic
  | .nop => .nop
  | .rst => .rst
  | .clrd => .clrd
  | .clrst => .clrst
  | .wr _ _ => .wr
  | .wrh _ _ => .wrh
  | .rd _ => .rd
  | .rdd _ => .rdd
  | .rdf _ => .rdf
  | .pushd _ => .pushd
  | .pusht _ => .pusht
  | .sett _ => .sett
  | .wincmp _ => .wincmp
  | .classify _ => .classify
  | .recon => .recon
  | .val => .val
  | .enc => .enc

/-- A command as a line of assembler states it (R90): its operands are plain numbers, which may not fit their fields. -/
structure SourceLine where
  mnemonic : Mnemonic
  operands : List Nat
deriving DecidableEq, Repr

end Sys2Proof
end

