-- ==== Sys2Proof/WellFormed.lean ====
section
/-! DEFINITION. Which assembler lines are well formed (spec/30_encoding.md R90): the operand count of the format and
operands that fit their fields. An `Instr` is well formed by its operand types; its source line says so. -/

namespace Sys2Proof

/-- R90's refusals: a register number above 63, imm16 above 0xFFFF, an index above 127, value24 above 0xFFFFFF,
and a number of operands that is not the format's. -/
def SourceLine.wellFormed (l : SourceLine) : Bool :=
  match l.mnemonic.format, l.operands with
  | .none, [] => true
  | .regImm, [r, imm] => decide (r ≤ 63) && decide (imm ≤ 0xFFFF)
  | .query, [r] => decide (r ≤ 63)
  | .index, [x] => decide (x ≤ 127)
  | .data, [d] => decide (d ≤ 0xFFFFFF)
  | _, _ => false

/-- The assembler line that stands for a command. -/
def Instr.source (i : Instr) : SourceLine where
  mnemonic := i.mnemonic
  operands :=
    match i with
    | .wr r imm => [r.toNat, imm.toNat]
    | .wrh r imm => [r.toNat, imm.toNat]
    | .rd r => [r.toNat]
    | .rdd x => [x.toNat]
    | .rdf x => [x.toNat]
    | .pushd d => [d.toNat]
    | .pusht t => [t.toNat]
    | .sett t => [t.toNat]
    | .wincmp d => [d.toNat]
    | .classify d => [d.toNat]
    | .nop | .rst | .clrd | .clrst | .recon | .val | .enc => []

/-- A command is well formed when its assembler line is. -/
def Instr.wellFormed (i : Instr) : Bool := i.source.wellFormed

end Sys2Proof
end

