-- ==== Sys2Proof/Decode.lean ====
section
/-! DEFINITION. The command word of spec/30_encoding.md: the opcode map (R86), decoding, total on every 32-bit word
(R87), the encoder, and the reading of an assembler line as a command (R90). -/

namespace Sys2Proof

/-- The opcode column of R86. -/
def Mnemonic.opcode : Mnemonic → BitVec 8
  | .nop => 0x00 | .rst => 0x01 | .clrd => 0x02 | .clrst => 0x03
  | .wr => 0x08 | .wrh => 0x09 | .rd => 0x0A | .rdd => 0x0B | .rdf => 0x0C
  | .pushd => 0x10 | .pusht => 0x11 | .sett => 0x12
  | .wincmp => 0x20 | .classify => 0x21
  | .recon => 0x30 | .val => 0x31 | .enc => 0x32

/-- Every mnemonic, in the order of R86. -/
def Mnemonic.all : List Mnemonic :=
  [.nop, .rst, .clrd, .clrst, .wr, .wrh, .rd, .rdd, .rdf, .pushd, .pusht, .sett, .wincmp, .classify, .recon, .val, .enc]

/-- The mnemonic whose opcode this is, if R86 lists it. -/
def Mnemonic.ofOpcode (op : BitVec 8) : Option Mnemonic := Mnemonic.all.find? fun m => m.opcode == op

/-- The reserved (must-be-0) positions of a format, as the pattern strings of R84 show them. -/
def Format.reserved : Format → Word
  | .none   => 0x00FFFFFF
  | .regImm => 0x00C00000
  | .query  => 0x00C0FFFF
  | .index  => 0x00FFFF80
  | .data   => 0x00000000

/-- Bits [31:24] (R83). -/
def opcodeField (w : Word) : BitVec 8 := w.extractLsb' 24 8

/-- `r = w[21:16]` (R85). -/
def registerField (w : Word) : BitVec 6 := w.extractLsb' 16 6

/-- `imm16 = w[15:0]` (R85). -/
def immediateField (w : Word) : BitVec 16 := w.extractLsb' 0 16

/-- `x = w[6:0]` (R85). -/
def indexField (w : Word) : BitVec 7 := w.extractLsb' 0 7

/-- `d = w[23:0]` (R85). -/
def dataField (w : Word) : Ticks := w.extractLsb' 0 24

/-- The command of a mnemonic with the operands of a word (R85). -/
def Mnemonic.withOperands (m : Mnemonic) (w : Word) : Instr :=
  match m with
  | .nop => .nop
  | .rst => .rst
  | .clrd => .clrd
  | .clrst => .clrst
  | .wr => .wr (registerField w) (immediateField w)
  | .wrh => .wrh (registerField w) (immediateField w)
  | .rd => .rd (registerField w)
  | .rdd => .rdd (indexField w)
  | .rdf => .rdf (indexField w)
  | .pushd => .pushd (dataField w)
  | .pusht => .pusht (dataField w)
  | .sett => .sett (dataField w)
  | .wincmp => .wincmp (dataField w)
  | .classify => .classify (dataField w)
  | .recon => .recon
  | .val => .val
  | .enc => .enc

/-- Why a word is no command (R87, R88). -/
inductive DecodeError where
  /-- The opcode is not in the map of R86: ERR_ILLEGAL. Safe: the word is answered as R87 says. -/
  | illegalOpcode
  /-- The opcode is this mnemonic's and a reserved bit of its format is 1: ERR_RESV. Safe: answered as R87 says. -/
  | reservedBits (m : Mnemonic)
deriving DecidableEq, Repr

/-- R87: the opcode first, then the reserved bits, then the fields. -/
def decode (w : Word) : Except DecodeError Instr :=
  match Mnemonic.ofOpcode (opcodeField w) with
  | none => .error .illegalOpcode
  | some m => if w &&& m.format.reserved = 0 then .ok (m.withOperands w) else .error (.reservedBits m)

/-- The operand field [23:0] of a command (R84, R85). -/
def Instr.operandField : Instr → BitVec 24
  | .wr r imm => 0#2 ++ r ++ imm
  | .wrh r imm => 0#2 ++ r ++ imm
  | .rd r => 0#2 ++ r ++ 0#16
  | .rdd x => 0#17 ++ x
  | .rdf x => 0#17 ++ x
  | .pushd d => d
  | .pusht t => t
  | .sett t => t
  | .wincmp d => d
  | .classify d => d
  | .nop | .rst | .clrd | .clrst | .recon | .val | .enc => 0

/-- The one word of a command (R83, R84). -/
def encode (i : Instr) : Word := i.mnemonic.opcode ++ i.operandField

/-- An assembler line read as a command: refused where R90 refuses it. -/
def SourceLine.assemble (l : SourceLine) : Option Instr :=
  if l.wellFormed then
    match l.mnemonic, l.operands with
    | .nop, [] => some .nop
    | .rst, [] => some .rst
    | .clrd, [] => some .clrd
    | .clrst, [] => some .clrst
    | .wr, [r, imm] => some (.wr (BitVec.ofNat 6 r) (BitVec.ofNat 16 imm))
    | .wrh, [r, imm] => some (.wrh (BitVec.ofNat 6 r) (BitVec.ofNat 16 imm))
    | .rd, [r] => some (.rd (BitVec.ofNat 6 r))
    | .rdd, [x] => some (.rdd (BitVec.ofNat 7 x))
    | .rdf, [x] => some (.rdf (BitVec.ofNat 7 x))
    | .pushd, [d] => some (.pushd (BitVec.ofNat 24 d))
    | .pusht, [t] => some (.pusht (BitVec.ofNat 24 t))
    | .sett, [t] => some (.sett (BitVec.ofNat 24 t))
    | .wincmp, [d] => some (.wincmp (BitVec.ofNat 24 d))
    | .classify, [d] => some (.classify (BitVec.ofNat 24 d))
    | .recon, [] => some .recon
    | .val, [] => some .val
    | .enc, [] => some .enc
    | _, _ => none
  else none

/-- The 32-bit command word whose `nbits` low bits are those of `w`, the others 0. -/
def tableWord (nbits w : Nat) : Word := BitVec.ofNat 32 (w % 2 ^ nbits)

/-- The command the decoder reads from an instruction numbered as spec/opcode_table.json numbers its bits: every
command is one 32-bit word, bit 0 its least significant bit (R7, R83). -/
def decodeTableWord (nbits w : Nat) : Option Instr := (decode (tableWord nbits w)).toOption

end Sys2Proof
end

