-- ==== Sys2Proof/Machine/Ops.lean ====
section
/-! DEFINITION. The named operations every command is made of: recording an error, which is all that "taking an
exception" is on this block (spec/60_exceptions.md R211, R217), the acknowledge that returns from it (R218), the
response (spec/30_encoding.md R82), completion (spec/10_state.md R36), reset (spec/70_reset_and_hazards.md R231, R232),
and the answer to a word that is no command (R87). -/

namespace Sys2Proof.Machine

/-- The command errors of R210. -/
inductive ErrorCode where
  | illegal | resv | badReg | ro | full | index | cfg | len
deriving DecidableEq, Repr

/-- The code ERRCODE holds for an error (R210). -/
def ErrorCode.code : ErrorCode → BitVec 8
  | .illegal => 1
  | .resv => 2
  | .badReg => 3
  | .ro => 4
  | .full => 5
  | .index => 6
  | .cfg => 7
  | .len => 8

/-- `raise Error(c)`: the first code is kept, STATUS.ERR is set, and nothing else changes (R211, R212). -/
def raiseError (c : ErrorCode) (s : State) : State :=
  { s with errCode := if s.errCode = 0 then c.code else s.errCode, err := true }

/-- The acknowledge of R218, CLRST's effect (R103): DONE, ERR and ERRCODE are cleared. -/
def acknowledge (s : State) : State := { s with done := false, err := false, errCode := 0 }

/-- `respond(v)`: the word waits on the response port (R9, R82). -/
def respond (v : Word) (s : State) : State := { s with rsp := some v }

/-- Completion of RECON, VAL or ENC: STATUS.DONE is set, whatever the enables (R36, R216). -/
def complete (s : State) : State := { s with done := true }

/-- Every piece of the block's state takes its reset value (R231); the parameters and what the host drives are not the
block's state and stay. -/
def resetBlock (s : State) : State := { State.reset with cfg := s.cfg, inputs := s.inputs }

/-- `append(DBUF, d)` (R9). -/
def appendDuration (d : Ticks) (s : State) : State := { s with dbuf := s.dbuf ++ [d] }

/-- DBUF already holds N_DUR durations (R120). -/
def dbufFull (s : State) : Bool := decide (s.cfg.nDur ≤ s.dbuf.length)

/-- The three commands that respond (R82). -/
def respondsOnError : Mnemonic → Bool
  | .rd | .rdd | .rdf => true
  | .nop | .rst | .clrd | .clrst | .wr | .wrh | .pushd | .pusht | .sett | .wincmp | .classify
  | .recon | .val | .enc => false

/-- An erroring read: the response is 0 and the error is recorded (R215). -/
def raiseReadError (c : ErrorCode) (s : State) : State := respond 0 (raiseError c s)

/-- The answer to an accepted word that is no command: ERR_ILLEGAL without a response, or ERR_RESV, with the response 0
where the opcode is a read's (R87, R215). -/
def rejectWord (e : DecodeError) (s : State) : State :=
  match e with
  | .illegalOpcode => raiseError .illegal s
  | .reservedBits m => if respondsOnError m then raiseReadError .resv s else raiseError .resv s

end Sys2Proof.Machine
end

