-- ==== Sys2Proof/Machine/Classifier.lean ====
section
/-! DEFINITION. The pulse duration classifier (spec/44_classifier.md): `classify` (R141, R142), the symbol codes (R10)
and the CLASS command (R144). -/

namespace Sys2Proof.Machine

/-- The 2-bit code of a symbol (R10). -/
def Symbol.code : Symbol → BitVec 2
  | .space => 0
  | .mark => 1
  | .ambiguous => 2

/-- `classify(d)` (R141): Mark is tried first (R142). -/
def classify (t : Timing) (d : Nat) : Symbol :=
  if near d t.mark t.tol then .mark
  else if near d t.space t.tol then .space
  else .ambiguous

/-- CLASS (R144). -/
def execClass (d : Ticks) (s : State) : Result :=
  .next (if s.cfgOk then { s with cls := (classify s.timing d.toNat).code } else raiseError .cfg s)

end Sys2Proof.Machine
end

