-- ==== Sys2Proof/Machine/Validator.lean ====
section
/-! DEFINITION. The protocol validator (spec/46_validator.md): the DHT22 checksum (R182), the NEC reflection check
(R183), the validator function (R181) and the VAL command (R185). -/

namespace Sys2Proof.Machine

/-- What `validate` returns (R181). -/
structure Verdict where
  vstat : BitVec 11
  csum : Word
  pass : Bool
deriving DecidableEq, Repr

/-- `mm` of two bytes: the number of positions at which they differ (R183). -/
def mismatches (a b : Bits) : Nat := (List.zipWith Bool.xor a b).count true

/-- `mm(h)` of the 16-bit half that starts at position `at'` of `s` (R183). -/
def halfMismatches (s : Bits) (at' : Nat) : Nat :=
  mismatches (slice s at' (at' + 8)) (slice s (at' + 8) (at' + 16))

/-- A half passes when its bytes are fully equal or fully complementary (R183). -/
def halfPasses (mm : Nat) : Bool := decide (mm = 0) || decide (mm = 8)

/-- `nec_check(L, s)` (R183). -/
def necCheck (L : Nat) (s : Bits) : Verdict :=
  let mm0 := halfMismatches s 0
  let mm1 := if L = 32 then halfMismatches s 16 else 0
  let protok := halfPasses mm0 && (decide (L = 16) || halfPasses mm1)
  ⟨vstatOf mm0 mm1 protok, 0, protok⟩

/-- `B_k`, the k-th byte of a DHT22 string (R64, R182). -/
def dhtByte (s : Bits) (k : Nat) : BitVec 8 := BitVec.ofNat 8 (bitsVal (slice s (8 * k) (8 * k + 8)))

/-- `dht_check(s)` (R182): byte arithmetic is modulo 256, and CSUM's layout is R44. -/
def dhtCheck (s : Bits) : Verdict :=
  let computed := dhtByte s 0 + dhtByte s 1 + dhtByte s 2 + dhtByte s 3
  let received := dhtByte s 4
  let protok := decide (computed = received)
  ⟨vstatOf 0 0 protok, (computed - received) ++ (received - computed) ++ received ++ computed, protok⟩

/-- `validate(m, L, s)` (R181) for a legal frame configuration (R180; log 9). -/
def validate (f : Frame) (s : Bits) : Verdict :=
  if s.length = f.length then
    match f.protocol with
    | .none => ⟨vstatOf 0 0 true, 0, true⟩
    | .nec => necCheck f.length s
    | .dht22 => dhtCheck s
  else ⟨0, 0, false⟩

/-- `BSV = BS_HI · 2^32 + BS_LO` (R34). -/
def State.bsv (s : State) : Nat := s.bsHi.toNat * 2 ^ 32 + s.bsLo.toNat

/-- The bit string BS (R34). Above length 40 only the length is meant (R185; log 10). -/
def State.bitString (s : State) : Bits := bitsOf s.bsLen.toNat s.bsv

/-- VAL (R185). -/
def execVal (s : State) : Result :=
  .next <|
    match s.frameConfig with
    | none => raiseError .cfg s
    | some f =>
      let v := validate f s.bitString
      complete { s with vstat := v.vstat, csum := v.csum }

end Sys2Proof.Machine
end

