-- ==== Sys2Proof/Machine/Encoder.lean ====
section
/-! DEFINITION. The bit string encoder (spec/47_encoder.md): canonical durations (R195), packing (R196), the ENC
command (R197) and the output fields that the view registers 29 to 34 read (R199 to R204). -/

namespace Sys2Proof.Machine

/-- `canon(b)` (R195). -/
def canon (s : State) (b : Bool) : Ticks := if b then s.markLen else s.spaceLen

/-- Writing a string into BS (R196). -/
def packBits (b : Bits) (s : State) : State :=
  { s with
    bsHi := BitVec.ofNat 8 (bitsVal b / 2 ^ 32)
    bsLo := BitVec.ofNat 32 (bitsVal b)
    bsLen := BitVec.ofNat 6 b.length }

/-- ENC (R197): CFGOK is checked first, then BS_LEN (R213). -/
def execEnc (s : State) : Result :=
  .next <|
    if s.cfgOk then
      if Config.bsMax < s.bsLen.toNat then raiseError .len s
      else complete { s with dbuf := s.bitString.map (canon s) }
    else raiseError .cfg s

/-- NEC_HEX (r29), R199. -/
def State.necHex (s : State) : Word :=
  if s.bsLen = 32 then
    0#16 ++ s.bsLo.extractLsb' 24 8 ++ (if s.hexSel then s.bsLo.extractLsb' 0 8 else s.bsLo.extractLsb' 8 8)
  else 0

/-- NEC_ADDR (r30), R200. -/
def State.necAddr (s : State) : Word := if s.bsLen = 32 then 0#16 ++ s.bsLo.extractLsb' 16 16 else 0

/-- NEC_CMD (r31), R201. -/
def State.necCmd (s : State) : Word := if s.bsLen = 32 then 0#16 ++ s.bsLo.extractLsb' 0 16 else 0

/-- DHT_HUM (r32), R202. -/
def State.dhtHum (s : State) : Word := if s.bsLen = 40 then 0#16 ++ s.bsHi ++ s.bsLo.extractLsb' 24 8 else 0

/-- DHT_TEMP (r33), R203: sign and magnitude on the wire, two's complement in the register. -/
def State.dhtTemp (s : State) : Word :=
  if s.bsLen = 40 then
    let raw : BitVec 16 := s.bsLo.extractLsb' 8 16
    let magnitude : Word := (raw.extractLsb' 0 15).setWidth 32
    if raw.getLsbD 15 then -magnitude else magnitude
  else 0

/-- DHT_CSUM (r34), R204. -/
def State.dhtCsum (s : State) : Word := if s.bsLen = 40 then 0#24 ++ s.bsLo.extractLsb' 0 8 else 0

end Sys2Proof.Machine
end

