-- ==== Sys2Proof/Machine/Operands.lean ====
section
/-! DEFINITION. The operand forms (spec/30_encoding.md R85) and the register file they reach (spec/10_state.md R21 to
R24): which register a number names, what each register reads as, and what writing one stores. -/

namespace Sys2Proof.Machine

/-- The read-write registers, numbers 0 to 15 (R21). -/
inductive RwReg where
  | ctrl | markLen | spaceLen | tol | frameLen | minCls | maxComb | startLo | startHi
  | rgap0 | rgap1 | rtol | bsLo | bsHi | bsLen | lastTs
deriving DecidableEq, Repr

/-- The read-only registers, numbers 16 to 34 (R21). -/
inductive RoReg where
  | status | errCode | rres | dcnt | ncls | nruns | ncomb | ntried | fbLen | vstat | csum | cls | brk
  | necHex | necAddr | necCmd | dhtHum | dhtTemp | dhtCsum
deriving DecidableEq, Repr

/-- What a register number names (R21, R23, R24). -/
inductive RegName where
  | rw (q : RwReg)
  | ro (q : RoReg)
  | undefined
deriving DecidableEq, Repr

/-- The map of R21. -/
def RegName.ofNumber (r : BitVec 6) : RegName :=
  match r.toNat with
  | 0 => .rw .ctrl
  | 1 => .rw .markLen
  | 2 => .rw .spaceLen
  | 3 => .rw .tol
  | 4 => .rw .frameLen
  | 5 => .rw .minCls
  | 6 => .rw .maxComb
  | 7 => .rw .startLo
  | 8 => .rw .startHi
  | 9 => .rw .rgap0
  | 10 => .rw .rgap1
  | 11 => .rw .rtol
  | 12 => .rw .bsLo
  | 13 => .rw .bsHi
  | 14 => .rw .bsLen
  | 15 => .rw .lastTs
  | 16 => .ro .status
  | 17 => .ro .errCode
  | 18 => .ro .rres
  | 19 => .ro .dcnt
  | 20 => .ro .ncls
  | 21 => .ro .nruns
  | 22 => .ro .ncomb
  | 23 => .ro .ntried
  | 24 => .ro .fbLen
  | 25 => .ro .vstat
  | 26 => .ro .csum
  | 27 => .ro .cls
  | 28 => .ro .brk
  | 29 => .ro .necHex
  | 30 => .ro .necAddr
  | 31 => .ro .necCmd
  | 32 => .ro .dhtHum
  | 33 => .ro .dhtTemp
  | 34 => .ro .dhtCsum
  | _ => .undefined

/-- The full 32-bit read value of a read-write register: zero outside its field (R22). -/
def readRw (s : State) : RwReg → Word
  | .ctrl => s.ctrl.setWidth 32
  | .markLen => s.markLen.setWidth 32
  | .spaceLen => s.spaceLen.setWidth 32
  | .tol => s.tol.setWidth 32
  | .frameLen => s.frameLen.setWidth 32
  | .minCls => s.minCls.setWidth 32
  | .maxComb => s.maxComb.setWidth 32
  | .startLo => s.startLo.setWidth 32
  | .startHi => s.startHi.setWidth 32
  | .rgap0 => s.rgap0.setWidth 32
  | .rgap1 => s.rgap1.setWidth 32
  | .rtol => s.rtol.setWidth 32
  | .bsLo => s.bsLo
  | .bsHi => s.bsHi.setWidth 32
  | .bsLen => s.bsLen.setWidth 32
  | .lastTs => s.lastTs.setWidth 32

/-- The 7-bit field of a buffer's length, as DCNT and FBLEN read it (R39, R42; log 11). -/
def lengthWord (n : Nat) : Word := (BitVec.ofNat 7 n).setWidth 32

/-- The full 32-bit read value of a read-only register: flags, counts and views are computed at the read (R35 to R47). -/
def readRo (s : State) : RoReg → Word
  | .status => s.statusWord
  | .errCode => s.errCode.setWidth 32
  | .rres => s.rres.setWidth 32
  | .dcnt => lengthWord s.dbuf.length
  | .ncls => s.ncls.setWidth 32
  | .nruns => s.nruns.setWidth 32
  | .ncomb => s.ncomb.setWidth 32
  | .ntried => s.ntried.setWidth 32
  | .fbLen => lengthWord s.fb.length
  | .vstat => s.vstat.setWidth 32
  | .csum => s.csum
  | .cls => s.cls.setWidth 32
  | .brk => s.brk.setWidth 32
  | .necHex => s.necHex
  | .necAddr => s.necAddr
  | .necCmd => s.necCmd
  | .dhtHum => s.dhtHum
  | .dhtTemp => s.dhtTemp
  | .dhtCsum => s.dhtCsum

/-- `reg[q] <- v`, masked to the register's field (R9, R22). -/
def writeRw (q : RwReg) (v : Word) (s : State) : State :=
  match q with
  | .ctrl => { s with ctrl := v.setWidth 5 }
  | .markLen => { s with markLen := v.setWidth 24 }
  | .spaceLen => { s with spaceLen := v.setWidth 24 }
  | .tol => { s with tol := v.setWidth 24 }
  | .frameLen => { s with frameLen := v.setWidth 6 }
  | .minCls => { s with minCls := v.setWidth 8 }
  | .maxComb => { s with maxComb := v.setWidth 24 }
  | .startLo => { s with startLo := v.setWidth 24 }
  | .startHi => { s with startHi := v.setWidth 24 }
  | .rgap0 => { s with rgap0 := v.setWidth 24 }
  | .rgap1 => { s with rgap1 := v.setWidth 24 }
  | .rtol => { s with rtol := v.setWidth 24 }
  | .bsLo => { s with bsLo := v }
  | .bsHi => { s with bsHi := v.setWidth 8 }
  | .bsLen => { s with bsLen := v.setWidth 6 }
  | .lastTs => { s with lastTs := v.setWidth 24 }

/-- WR's operand: imm16 zero-extended (R85, R110). -/
def lowImmediate (imm16 : BitVec 16) : Word := 0#16 ++ imm16

/-- WRH's operand: imm16 at bits [31:16] above the register's low half (R85, R111). -/
def highImmediate (imm16 : BitVec 16) (old : Word) : Word := imm16 ++ old.extractLsb' 0 16

/-- A register write that answers the errors of R110 and R111: `value old` is stored in a read-write register. -/
def writeRegister (r : BitVec 6) (value : Word → Word) (s : State) : State :=
  match RegName.ofNumber r with
  | .undefined => raiseError .badReg s
  | .ro _ => raiseError .ro s
  | .rw q => writeRw q (value (readRw s q)) s

/-- A buffer read that answers the error of R113 and R114. -/
def readBuffer (element : Option Word) (s : State) : State :=
  match element with
  | none => raiseReadError .index s
  | some v => respond v s

end Sys2Proof.Machine
end

