-- ==== Sys2Proof/Machine/Access.lean ====
section
/-! DEFINITION. The register and buffer access commands WR, WRH, RD, RDD and RDF (spec/41_register_access.md R110 to
R114). -/

namespace Sys2Proof.Machine

/-- WR (R110). -/
def execWr (r : BitVec 6) (imm16 : BitVec 16) (s : State) : Result :=
  .next (writeRegister r (fun _ => lowImmediate imm16) s)

/-- WRH (R111). -/
def execWrh (r : BitVec 6) (imm16 : BitVec 16) (s : State) : Result :=
  .next (writeRegister r (highImmediate imm16) s)

/-- RD (R112). -/
def execRd (r : BitVec 6) (s : State) : Result :=
  .next <|
    match RegName.ofNumber r with
    | .undefined => raiseReadError .badReg s
    | .rw q => respond (readRw s q) s
    | .ro q => respond (readRo s q) s

/-- RDD (R113). -/
def execRdd (x : BitVec 7) (s : State) : Result :=
  .next (readBuffer (s.dbuf[x.toNat]?.map (·.setWidth 32)) s)

/-- RDF (R114). -/
def execRdf (x : BitVec 7) (s : State) : Result :=
  .next (readBuffer (s.fb[x.toNat]?.map (·.code.setWidth 32)) s)

end Sys2Proof.Machine
end

