-- ==== Sys2Proof/Machine/Control.lean ====
section
/-! DEFINITION. The control commands NOP, RST, CLRD and CLRST (spec/40_control.md R100 to R103). -/

namespace Sys2Proof.Machine

/-- NOP (R100). -/
def execNop (s : State) : Result := .next s

/-- RST (R101, R232). -/
def execRst (s : State) : Result := .next (resetBlock s)

/-- CLRD (R102). -/
def execClrd (s : State) : Result := .next { s with dbuf := [] }

/-- CLRST (R103, R218). -/
def execClrst (s : State) : Result := .next (acknowledge s)

end Sys2Proof.Machine
end

