-- ==== Sys2Proof/Machine/Input.lean ====
section
/-! DEFINITION. The duration input commands PUSHD, PUSHT and SETT (spec/42_input.md R120 to R122). -/

namespace Sys2Proof.Machine

/-- PUSHD (R120). -/
def execPushd (d : Ticks) (s : State) : Result :=
  .next (if dbufFull s then raiseError .full s else appendDuration d s)

/-- PUSHT (R121): the subtraction wraps modulo 2^24. -/
def execPusht (t : Ticks) (s : State) : Result :=
  .next (if dbufFull s then raiseError .full s else { appendDuration (t - s.lastTs) s with lastTs := t })

/-- SETT (R122). -/
def execSett (t : Ticks) (s : State) : Result := .next { s with lastTs := t }

end Sys2Proof.Machine
end

