-- ==== Sys2Proof/Machine/Reconstructor.lean ====
section
/-! DEFINITION. The frame reconstructor (spec/45_reconstructor.md): CLASSIFY (R152 to R155), CHECK (R156 to R161),
ENUMERATE (R162 to R164), FINISH (R165 to R167) and the RECON command (R169), which is all of them as one step (R150). -/

namespace Sys2Proof.Machine

/-- A segment (R152): a chunk of classified bits, or an ambiguous run with its wrong length. -/
inductive Segment where
  | chunk (bits : Bits)
  | run (w : Nat)
deriving DecidableEq, Repr

/-- One turn of R152's loop, with the segments built so far listed LAST FIRST. -/
def extendSegments (t : Timing) (segs : List Segment) (d : Nat) : List Segment :=
  match classify t d, segs with
  | .ambiguous, .run w :: rest => .run (w + d) :: rest
  | .ambiguous, segs => .run d :: segs
  | c, .chunk bits :: rest => .chunk (bits ++ [decide (c = .mark)]) :: rest
  | c, segs => .chunk [decide (c = .mark)] :: segs

/-- `segs` of R152: the durations are walked once in order. -/
def segments (t : Timing) (ds : List Nat) : List Segment := (ds.foldl (extendSegments t) []).reverse

/-- NCLS (R153). -/
def classifiedCount (t : Timing) (ds : List Nat) : Nat := ds.countP fun d => decide (classify t d ≠ .ambiguous)

/-- The wrong lengths of the runs, in order; NRUNS is their number (R152, R153). -/
def wrongLengths : List Segment → List Nat
  | [] => []
  | .chunk _ :: rest => wrongLengths rest
  | .run w :: rest => w :: wrongLengths rest

/-- The FB codes of one segment (R154). -/
def Segment.pattern : Segment → List Symbol
  | .chunk bits => bits.map fun b => if b then .mark else .space
  | .run _ => [.ambiguous]

/-- The fallback pattern (R154). -/
def fallbackPattern (segs : List Segment) : List Symbol := segs.flatMap Segment.pattern

/-- R157's bound: a run longer than this is unrecoverable. -/
def rangeBound (t : Timing) : Nat := 3 * t.mark + t.tol

/-- `nominal(c)` (R158). -/
def nominal (t : Timing) (c : Bits) : Nat := (c.map fun b => if b then t.mark else t.space).sum

/-- The strings of 1, 2 and 3 bits: length first, then ascending value (R159). -/
def allCandidates : List Bits :=
  (List.range Config.candMaxLen).flatMap fun k => (List.range (2 ^ (k + 1))).map (bitsOf (k + 1))

/-- `cands(W)` (R159). -/
def candidates (t : Timing) (w : Nat) : List Bits := allCandidates.filter fun c => near w (nominal t c) t.tol

/-- `P`, exact: 1 when there is no run, 0 when some set is empty (R160). -/
def productSize (sets : List (List Bits)) : Nat := sets.foldr (fun cs p => cs.length * p) 1

/-- The largest value of NCOMB (R160). -/
def ncombMax : Nat := 2 ^ 24 - 1

/-- R162's step to the next index vector, for the sizes of the sets: the rightmost index advances, with carry;
none when exhausted. -/
def odometerNext : List Nat → List Nat → Option (List Nat)
  | n :: ns, i :: is =>
    match odometerNext ns is with
    | some is' => some (i :: is')
    | none => if i + 1 < n then some ((i + 1) :: is.map fun _ => 0) else none
  | _, _ => none

/-- The candidate each index picks from its set (R164). -/
def chosen (sets : List (List Bits)) (idx : List Nat) : List Bits :=
  List.zipWith (fun cs i => cs.getD i []) sets idx

/-- The spliced string of a combination (R164): the j-th run takes the j-th choice (log 12). -/
def splice : List Segment → List Bits → Bits
  | [], _ => []
  | .chunk bits :: rest, cs => bits ++ splice rest cs
  | .run _ :: rest, c :: cs => c ++ splice rest cs
  | .run _ :: rest, [] => splice rest []

/-- What ENUMERATE has found so far: NTRIED (R163), VSTAT and CSUM of the last full-length combination (R164), and the
accepted string, if any (R165). -/
structure Search where
  tried : Nat
  vstat : BitVec 11
  csum : Word
  found : Option Bits
deriving DecidableEq, Repr

/-- The search before its first combination (R155). -/
def Search.start : Search := ⟨0, 0, 0, none⟩

/-- One combination evaluated (R163, R164): a string of the wrong length is counted and not validated. -/
def Search.visit (f : Frame) (b : Bits) (a : Search) : Search :=
  if b.length = f.length then
    let v := validate f b
    ⟨a.tried + 1, v.vstat, v.csum, if v.pass then some b else none⟩
  else { a with tried := a.tried + 1 }

/-- ENUMERATE (R162 to R165): at most `fuel` combinations from the index vector `idx` on, up to the first that passes.
RECON gives it P as fuel, the number of combinations there are. -/
def enumerate (f : Frame) (segs : List Segment) (sets : List (List Bits)) : Nat → List Nat → Search → Search
  | 0, _, a => a
  | fuel + 1, idx, a =>
    let a' := a.visit f (splice segs (chosen sets idx))
    match a'.found with
    | some _ => a'
    | none =>
      match odometerNext (sets.map List.length) idx with
      | none => a'
      | some idx' => enumerate f segs sets fuel idx' a'

/-- The result codes a RECON ends with (R167); 0, NONE, is only the reset value. -/
inductive ReconResult where
  | ok | unvalidated | failFew | failAllAmbig | failRange | failCombo
deriving DecidableEq, Repr

/-- RRES's code (R38, R167). -/
def ReconResult.code : ReconResult → BitVec 3
  | .ok => 1
  | .unvalidated => 2
  | .failFew => 3
  | .failAllAmbig => 4
  | .failRange => 5
  | .failCombo => 6

/-- What one reconstruction yields, in exact numbers. -/
structure ReconReport where
  result : ReconResult
  fb : List Symbol
  ncls : Nat
  nruns : Nat
  ncomb : Nat
  ntried : Nat
  vstat : BitVec 11
  csum : Word
  /-- The accepted string; empty where none was (R155, R165). -/
  bits : Bits
deriving DecidableEq, Repr

/-- The report at the end of CLASSIFY (R152 to R155), to be ended with a result. -/
def classifyPhase (t : Timing) (ds : List Nat) (segs : List Segment) (result : ReconResult) : ReconReport where
  result := result
  fb := fallbackPattern segs
  ncls := classifiedCount t ds
  nruns := (wrongLengths segs).length
  ncomb := 0
  ntried := 0
  vstat := 0
  csum := 0
  bits := []

/-- FINISH for an enumeration that ended (R165, R166). -/
def finishPhase (minCls : Nat) (r : ReconReport) (a : Search) : ReconReport :=
  { r with
    ntried := a.tried
    vstat := a.vstat
    csum := a.csum
    bits := a.found.getD []
    result :=
      match a.found with
      | some _ => .ok
      | none => if minCls ≤ r.ncls then .unvalidated else .failFew }

/-- The whole reconstruction (R150, R169). -/
def reconstruct (t : Timing) (f : Frame) (minCls maxComb : Nat) (ds : List Nat) : ReconReport :=
  let segs := segments t ds
  let widths := wrongLengths segs
  if classifiedCount t ds = 0 ∧ 1 ≤ widths.length then classifyPhase t ds segs .failAllAmbig
  else if widths.any fun w => decide (rangeBound t < w) then classifyPhase t ds segs .failRange
  else
    let sets := widths.map (candidates t)
    let p := productSize sets
    let r := { classifyPhase t ds segs .failCombo with ncomb := min p ncombMax }
    if maxComb < p then r
    else finishPhase minCls r (enumerate f segs sets p (sets.map fun _ => 0) Search.start)

/-- The registers a reconstruction writes (R153 to R155, R160, R163 to R166). -/
def writeReport (r : ReconReport) (s : State) : State :=
  packBits r.bits
    { s with
      rres := r.result.code
      fb := r.fb
      ncls := BitVec.ofNat 7 r.ncls
      nruns := BitVec.ofNat 7 r.nruns
      ncomb := BitVec.ofNat 24 r.ncomb
      ntried := BitVec.ofNat 24 r.ntried
      vstat := r.vstat
      csum := r.csum }

/-- The reconstruction the registers and DBUF of a state ask for, under a legal frame configuration. -/
def reconReport (f : Frame) (s : State) : ReconReport :=
  reconstruct s.timing f s.minCls.toNat s.maxComb.toNat (s.dbuf.map (·.toNat))

/-- RECON (R169): CFGOK and FRAMEOK are needed (R151). -/
def execRecon (s : State) : Result :=
  .next <|
    if s.cfgOk then
      match s.frameConfig with
      | none => raiseError .cfg s
      | some f => complete (writeReport (reconReport f s) s)
    else raiseError .cfg s

end Sys2Proof.Machine
end

