-- ==== Sys2Proof/Machine/Window.lean ====
section
/-! DEFINITION. The start detector (spec/43_window_comparator.md): the repeat-gap match (R132) and WINCMP (R131). -/

namespace Sys2Proof.Machine

/-- One repeat-gap comparator: a gap register holding 0 takes no part (R132). -/
def gapMatches (s : State) (gap : Ticks) : Bool :=
  decide (gap ≠ 0) && near s.brk.toNat gap.toNat s.rtol.toNat

/-- `repeat_match(BREAK)` (R132). -/
def repeatMatch (s : State) : Bool :=
  decide (s.mode = .nec) && (gapMatches s s.rgap0 || gapMatches s s.rgap1)

/-- WINCMP (R131). -/
def execWincmp (d : Ticks) (s : State) : Result :=
  .next <|
    if inWindow d.toNat s.startLo.toNat s.startHi.toNat then
      { s with repeatGap := repeatMatch s, armed := true }
    else { s with armed := false, repeatGap := false, brk := d }

end Sys2Proof.Machine
end

