-- ==== Sys2Proof/Machine/Dispatch.lean ====
section
/-! DEFINITION. The dispatch of a decoded command to its meaning: one arm per row of spec/opcode_table.json. -/

namespace Sys2Proof.Machine

def exec (i : Instr) (s : State) : Host.Outcome State Fault Refusal :=
  match i with
  | .nop => Sys2Proof.Machine.execNop s
  | .rst => Sys2Proof.Machine.execRst s
  | .clrd => Sys2Proof.Machine.execClrd s
  | .clrst => Sys2Proof.Machine.execClrst s
  | .wr r imm16 => Sys2Proof.Machine.execWr r imm16 s
  | .wrh r imm16 => Sys2Proof.Machine.execWrh r imm16 s
  | .rd r => Sys2Proof.Machine.execRd r s
  | .rdd x => Sys2Proof.Machine.execRdd x s
  | .rdf x => Sys2Proof.Machine.execRdf x s
  | .pushd d => Sys2Proof.Machine.execPushd d s
  | .pusht t => Sys2Proof.Machine.execPusht t s
  | .sett t => Sys2Proof.Machine.execSett t s
  | .wincmp d => Sys2Proof.Machine.execWincmp d s
  | .classify d => Sys2Proof.Machine.execClass d s
  | .recon => Sys2Proof.Machine.execRecon s
  | .val => Sys2Proof.Machine.execVal s
  | .enc => Sys2Proof.Machine.execEnc s

end Sys2Proof.Machine
end

