-- ==== Sys2Proof/Machine/Ports.lean ====
section
/-! DEFINITION. The ports (spec/30_encoding.md R80 to R82, spec/70_reset_and_hazards.md R230): the outputs as functions of
the state, and what one clock edge does at which the block is not executing a command (log 3). -/

namespace Sys2Proof.Machine

/-- `rsp_valid`: a response word waits (R80, R82). It follows the state only, so R230's `rsp_valid` = 0 holds from the sampled
reset edge on (DESIGN CHOICE, log 18). -/
def State.rspValid (s : State) : Bool := s.rsp.isSome

/-- `busy` between steps: every accepted command has finished (R51, R81; logs 3 and 18). -/
def State.busy (_ : State) : Bool := false

/-- `cmd_ready` at an edge whose reset input is `rstN` (R81), and not at the first edge after reset (R230; log 4). -/
def State.cmdReady (s : State) (rstN : Bool) : Bool := rstN && !s.inReset && !s.busy && !s.rspValid

/-- An accepted word is decoded, and its command executed or its error recorded (R87). -/
def acceptWord (w : Word) (s : State) : Result :=
  match decode w with
  | .ok i => exec i s
  | .error e => .next (rejectWord e s)

/-- The host takes the waiting response where it is ready for it (R82; log 5). -/
def takeResponse (ready : Bool) (s : State) : State := if ready then { s with rsp := none } else s

/-- One rising edge of `clk`. With `rst_n` = 0 the block is reset (R230). The first edge after that leaves it idle.
Otherwise a waiting response can be taken, or, where `cmd_ready` = 1, an offered word is accepted and is one atomic step
(R5, R66, R81). -/
def clockEdge (e : PortEdge) (s : State) : Result :=
  if e.rstN then
    if s.inReset then .next { s with inReset := false }
    else if s.cmdReady e.rstN then
      match e.cmd with
      | none => .next s
      | some w => acceptWord w s
    else .next (takeResponse e.rspReady s)
  else .next { resetBlock s with inReset := true }

/-- An edge at which the host offers `w` and holds `rst_n` high. -/
def commandEdge (w : Word) : PortEdge := ⟨true, some w, false⟩

end Sys2Proof.Machine
end

