-- ==== Sys2Proof/Machine/Step.lean ====
section
/-! DEFINITION. One step: the next port edge the host drives is applied; with none, the block holds its state
(spec/60_exceptions.md R221; log 2). The block fetches no program (spec/10_state.md R20): the host's words are its program. -/

namespace Sys2Proof.Machine

def step (s : State) : Host.Outcome State Fault Refusal :=
  match s.inputs with
  | [] => .next s
  | e :: rest => clockEdge e { s with inputs := rest }

/-- `s` with the instruction offered at the very next edge, and nothing that would keep the block from accepting it: no
response waiting, not in reset (R81). -/
def State.withFetchWord (s : State) (nbits w : Nat) : State :=
  { s with inputs := commandEdge (tableWord nbits w) :: s.inputs, rsp := none, inReset := false }

end Sys2Proof.Machine
end

