-- ==== Sys2Proof/Machine/Assembler.lean ====
section
/-! DEFINITION. The assembler of spec/30_encoding.md: the syntax of one line (R90; log 14) and the pseudo-instructions
with their expansions (R91). It makes commands; the block itself sees only their words. -/

namespace Sys2Proof.Machine

/-- The spelling of a mnemonic (R86). -/
def mnemonicName : Mnemonic → List Char
  | .nop => "NOP".toList | .rst => "RST".toList | .clrd => "CLRD".toList | .clrst => "CLRST".toList
  | .wr => "WR".toList | .wrh => "WRH".toList | .rd => "RD".toList | .rdd => "RDD".toList | .rdf => "RDF".toList
  | .pushd => "PUSHD".toList | .pusht => "PUSHT".toList | .sett => "SETT".toList
  | .wincmp => "WINCMP".toList | .classify => "CLASS".toList
  | .recon => "RECON".toList | .val => "VAL".toList | .enc => "ENC".toList

/-- The register names of R21, at the position of their number. -/
def registerNames : List (List Char) :=
  ["CTRL".toList, "MARK_LEN".toList, "SPACE_LEN".toList, "TOL".toList, "FRAME_LEN".toList, "MINCLS".toList,
    "MAXCOMB".toList, "START_LO".toList, "START_HI".toList, "RGAP0".toList, "RGAP1".toList, "RTOL".toList,
    "BS_LO".toList, "BS_HI".toList, "BS_LEN".toList, "LAST_TS".toList, "STATUS".toList, "ERRCODE".toList,
    "RRES".toList, "DCNT".toList, "NCLS".toList, "NRUNS".toList, "NCOMB".toList, "NTRIED".toList, "FBLEN".toList,
    "VSTAT".toList, "CSUM".toList, "CLS".toList, "BREAK".toList, "NEC_HEX".toList, "NEC_ADDR".toList,
    "NEC_CMD".toList, "DHT_HUM".toList, "DHT_TEMP".toList, "DHT_CSUM".toList]

/-- The value of a digit in a base, if the character is one. -/
def digitValue (base : Nat) (c : Char) : Option Nat :=
  let n := c.toNat
  let v :=
    if 48 ≤ n ∧ n ≤ 57 then n - 48
    else if 65 ≤ n ∧ n ≤ 70 then n - 55
    else if 97 ≤ n ∧ n ≤ 102 then n - 87
    else base
  if v < base then some v else none

/-- The number a string of digits spells, after the digits already read. -/
def digitsValue (base : Nat) : Nat → List Char → Option Nat
  | acc, [] => some acc
  | acc, c :: cs =>
    match digitValue base c with
    | some v => digitsValue base (acc * base + v) cs
    | none => none

/-- A number is decimal or `0x` hexadecimal (R90). That leading zeros are accepted, and leave a number
decimal, is the model's choice (DESIGN CHOICE, log 14). -/
def parseNumber : List Char → Option Nat
  | [] => none
  | ['0', 'x'] => none
  | '0' :: 'x' :: cs => digitsValue 16 0 cs
  | cs => digitsValue 10 0 cs

/-- A register operand is a register name or `r<n>` (R90); the assembler's number check is the line's. How `<n>` may be
written is the model's choice: decimal digits only, never `0x`, leading zeros accepted (DESIGN CHOICE, log 14). -/
def parseRegister (cs : List Char) : Option Nat :=
  match registerNames.findIdx? (· == cs), cs with
  | some n, _ => some n
  | none, 'r' :: c :: ds => digitsValue 10 0 (c :: ds)
  | none, _ => none

/-- Blank space between tokens. -/
def isBlank (c : Char) : Bool := c == ' ' || c == '\t'

/-- The characters without the blanks at both ends. -/
def trimBlanks (cs : List Char) : List Char := ((cs.dropWhile isBlank).reverse.dropWhile isBlank).reverse

/-- The operands of a line, separated by commas (R90). -/
def splitOperands (cs : List Char) : List (List Char) :=
  match trimBlanks cs with
  | [] => []
  | ds => (ds.splitOn ',').map trimBlanks

/-- The pseudo-instructions of R91. -/
inductive Pseudo where
  /-- `LI reg, v`: load a register with a value of up to 32 bits. -/
  | li (r v : Nat)
  /-- `LDBS v, L`: load BS with a value of up to 40 bits and a length. -/
  | ldbs (v L : Nat)
deriving DecidableEq, Repr

/-- R91's expansion of `LI`, refused outside its range. -/
def expandLi (r v : Nat) : Option (List Instr) :=
  if r ≤ 63 ∧ v < 2 ^ 16 then some [.wr (BitVec.ofNat 6 r) (BitVec.ofNat 16 v)]
  else if r ≤ 63 ∧ v < 2 ^ 32 then
    some [.wr (BitVec.ofNat 6 r) (BitVec.ofNat 16 v), .wrh (BitVec.ofNat 6 r) (BitVec.ofNat 16 (v / 2 ^ 16))]
  else none

/-- R91's expansion of a pseudo-instruction, refused outside its range. -/
def Pseudo.expand : Pseudo → Option (List Instr)
  | .li r v => expandLi r v
  | .ldbs v L =>
    if v < 2 ^ 40 ∧ L ≤ 63 then
      (expandLi 12 (v % 2 ^ 32)).map
        (· ++ [.wr 13 (BitVec.ofNat 16 (v / 2 ^ 32)), .wr 14 (BitVec.ofNat 16 L)])
    else none

/-- The operands of a command line as numbers, by the operand form of its format (R90). -/
def parseOperands (f : Format) (ops : List (List Char)) : Option (List Nat) :=
  match f, ops with
  | .none, [] => some []
  | .regImm, [r, v] => (parseRegister r).bind fun n => (parseNumber v).map fun m => [n, m]
  | .query, [r] => (parseRegister r).map fun n => [n]
  | .index, [x] => (parseNumber x).map fun n => [n]
  | .data, [d] => (parseNumber d).map fun n => [n]
  | _, _ => none

/-- A mnemonic with its operands, read as the commands it stands for (R90, R91). -/
def parseCommand (name : List Char) (ops : List (List Char)) : Option (List Instr) :=
  match Mnemonic.all.find? fun m => mnemonicName m == name with
  | some m => (parseOperands m.format ops).bind fun ns => (SourceLine.mk m ns).assemble.map fun i => [i]
  | none =>
    match ops with
    | [a, b] =>
      if name = "LI".toList then
        (parseRegister a).bind fun r => (parseNumber b).bind fun v => (Pseudo.li r v).expand
      else if name = "LDBS".toList then
        (parseNumber a).bind fun v => (parseNumber b).bind fun L => (Pseudo.ldbs v L).expand
      else none
    | _ => none

/-- One line of assembler (R90): a comment starts at `;`, and a line without a command assembles to nothing. -/
def assembleLine (line : List Char) : Option (List Instr) :=
  let text := trimBlanks (line.takeWhile (· != ';'))
  match text.takeWhile fun c => !isBlank c with
  | [] => some []
  | name => parseCommand name (splitOperands (text.dropWhile fun c => !isBlank c))

end Sys2Proof.Machine
end

