-- ==== Sys2Proof/Safety.lean ====
section
/-! DEFINITION. What a legal state of the block is: the relations between the fields of State that the rules of spec/
promise, which every step is to keep. -/

namespace Sys2Proof.Machine

/-- DBUF and FB fit their depth N_DUR, which is in R6's range; FB holds NCLS + NRUNS codes (R6, R48, R49, R154). -/
abbrev State.BuffersLegal (s : State) : Prop :=
  s.cfg.legal ∧ s.dbuf.length ≤ s.cfg.nDur ∧ s.fb.length ≤ s.cfg.nDur ∧ s.ncls.toNat + s.nruns.toNat = s.fb.length

/-- ERRCODE is one of R210's codes, and STATUS.ERR is set exactly when one is recorded (R37, R210, R211). -/
abbrev State.ErrorsLegal (s : State) : Prop := s.errCode.toNat ≤ 8 ∧ (s.err = true ↔ s.errCode ≠ 0)

/-- RRES is never 7 (R38), and no more combinations were tried than there are (R163). -/
abbrev State.ResultsLegal (s : State) : Prop := s.rres ≠ 7 ∧ s.ntried.toNat ≤ s.ncomb.toNat

/-- STATUS.REPEAT = 1 implies STATUS.ARMED = 1 (R133). -/
abbrev State.DetectorLegal (s : State) : Prop := s.repeatGap = true → s.armed = true

/-- VSTAT is 0 unless LENOK is 1, PASS is PROTOK (R43), and CSUM's two differences are those of its bytes (R44). -/
abbrev State.VerdictLegal (s : State) : Prop :=
  (s.vstat.getLsbD 8 = false → s.vstat = 0) ∧ s.vstat.getLsbD 10 = s.vstat.getLsbD 9
    ∧ s.csum.extractLsb' 16 8 = s.csum.extractLsb' 8 8 - s.csum.extractLsb' 0 8
    ∧ s.csum.extractLsb' 24 8 = s.csum.extractLsb' 0 8 - s.csum.extractLsb' 8 8

/-- A legal state of the block. -/
abbrev State.Legal (s : State) : Prop :=
  s.BuffersLegal ∧ s.ErrorsLegal ∧ s.ResultsLegal ∧ s.DetectorLegal ∧ s.VerdictLegal

end Sys2Proof.Machine
end

