-- ==== Sys2Proof/Certificates/Slice0/Obligations.lean ====
section
/-! DEFINITION. The statements about the block, one `def Obligations.<Name> : Prop` each. What the rules of spec/ say in
numbers is written out here again under `Sys2Proof.Claims`, so that a statement does not rest on the model's own word. -/

open Sys2Proof Sys2Proof.Machine

namespace Sys2Proof.Claims

/-! ### Errors and words -/

/-- `raise Error(c)` of R211: the first code is kept, ERR is set, nothing else changes (R212). -/
def errored (c : BitVec 8) (s : State) : State :=
  { s with errCode := if s.errCode = 0 then c else s.errCode, err := true }

/-- The same, with the response 0 of an erroring read (R215). -/
def erroredRead (c : BitVec 8) (s : State) : State := { errored c s with rsp := some 0 }

/-- A row of R86 with the reserved positions R84 gives its format. -/
structure Row where
  mnemonic : Mnemonic
  opcode : Nat
  reserved : Nat

/-- The opcode map (R86) with the reserved positions (R84), in numbers. -/
def opcodeRows : List Row :=
  [⟨.nop, 0x00, 0xFFFFFF⟩, ⟨.rst, 0x01, 0xFFFFFF⟩, ⟨.clrd, 0x02, 0xFFFFFF⟩, ⟨.clrst, 0x03, 0xFFFFFF⟩,
   ⟨.wr, 0x08, 0xC00000⟩, ⟨.wrh, 0x09, 0xC00000⟩, ⟨.rd, 0x0A, 0xC0FFFF⟩, ⟨.rdd, 0x0B, 0xFFFF80⟩, ⟨.rdf, 0x0C, 0xFFFF80⟩,
   ⟨.pushd, 0x10, 0⟩, ⟨.pusht, 0x11, 0⟩, ⟨.sett, 0x12, 0⟩, ⟨.wincmp, 0x20, 0⟩, ⟨.classify, 0x21, 0⟩,
   ⟨.recon, 0x30, 0xFFFFFF⟩, ⟨.val, 0x31, 0xFFFFFF⟩, ⟨.enc, 0x32, 0xFFFFFF⟩]

/-- Bits [31:24] of a word. -/
def opOf (w : Word) : Nat := w.toNat / 2 ^ 24

/-- The commands that respond (R82). -/
def reads (m : Mnemonic) : Bool := decide (m = .rd ∨ m = .rdd ∨ m = .rdf)

/-- An error as a command of mnemonic `m` answers it: a read responds 0 (R215). -/
def erroredBy (m : Mnemonic) (c : BitVec 8) (s : State) : State := if reads m then erroredRead c s else errored c s

/-- A word with this opcode and a 1 in one of these reserved positions raises ERR_RESV and does nothing else (R87). -/
def ReservedRaises (m : Mnemonic) (opcode reserved : Nat) : Prop :=
  ∀ (w : Word) (s : State), opOf w = opcode → w.toNat &&& reserved ≠ 0 → acceptWord w s = .next (erroredBy m 2 s)

/-- The word with this opcode and operand field (R83). -/
def wordOf (opcode operand : Nat) : Word := BitVec.ofNat 32 (opcode * 2 ^ 24 + operand)

/-- Format N (R84): the command has one word, its opcode over 24 reserved zeros. -/
def EncodedN (i : Instr) (opcode : Nat) : Prop :=
  decode (wordOf opcode 0) = .ok i ∧ ReservedRaises i.mnemonic opcode 0xFFFFFF

/-- Format R (R84, R85): the register number at [21:16] and the immediate at [15:0]; [23:22] are reserved. -/
def EncodedR (m : Mnemonic) (command : BitVec 6 → BitVec 16 → Instr) (opcode : Nat) : Prop :=
  (∀ (r : BitVec 6) (imm : BitVec 16), decode (wordOf opcode (r.toNat * 2 ^ 16 + imm.toNat)) = .ok (command r imm))
    ∧ ReservedRaises m opcode 0xC00000

/-- Format Q (R84, R85): the register number at [21:16]; [23:22] and [15:0] are reserved. -/
def EncodedQ (m : Mnemonic) (command : BitVec 6 → Instr) (opcode : Nat) : Prop :=
  (∀ r : BitVec 6, decode (wordOf opcode (r.toNat * 2 ^ 16)) = .ok (command r)) ∧ ReservedRaises m opcode 0xC0FFFF

/-- Format I (R84, R85): the index at [6:0]; [23:7] are reserved. -/
def EncodedI (m : Mnemonic) (command : BitVec 7 → Instr) (opcode : Nat) : Prop :=
  (∀ x : BitVec 7, decode (wordOf opcode x.toNat) = .ok (command x)) ∧ ReservedRaises m opcode 0xFFFF80

/-- Format D (R84, R85): the duration or timestamp at [23:0]; nothing is reserved. -/
def EncodedD (command : Ticks → Instr) (opcode : Nat) : Prop :=
  ∀ d : Ticks, decode (wordOf opcode d.toNat) = .ok (command d)

/-- The lines R90 does not refuse, in numbers: the operand count of the format, r up to 63, imm16 up to 0xFFFF, an index up
to 127 and value24 up to 0xFFFFFF. -/
def LineFits (l : SourceLine) : Prop :=
  match l.mnemonic with
  | .nop | .rst | .clrd | .clrst | .recon | .val | .enc => l.operands = []
  | .wr | .wrh => ∃ r imm : Nat, l.operands = [r, imm] ∧ r ≤ 63 ∧ imm ≤ 0xFFFF
  | .rd => ∃ r : Nat, l.operands = [r] ∧ r ≤ 63
  | .rdd | .rdf => ∃ x : Nat, l.operands = [x] ∧ x ≤ 127
  | .pushd | .pusht | .sett | .wincmp | .classify => ∃ d : Nat, l.operands = [d] ∧ d ≤ 0xFFFFFF

/-! ### Registers in numbers -/

/-- The reset state of R231, with what a reset leaves alone: the parameters and the host's side of the ports. -/
def resetState (cfg : Config) (inReset : Bool) (inputs : List PortEdge) : State where
  ctrl := 4
  markLen := 0
  spaceLen := 0
  tol := 0
  frameLen := 0
  minCls := 10
  maxComb := 10000
  startLo := 0
  startHi := 0
  rgap0 := 0
  rgap1 := 0
  rtol := 0
  bsLo := 0
  bsHi := 0
  bsLen := 0
  lastTs := 0
  done := false
  err := false
  armed := false
  repeatGap := false
  errCode := 0
  rres := 0
  dbuf := []
  fb := []
  ncls := 0
  nruns := 0
  ncomb := 0
  ntried := 0
  vstat := 0
  csum := 0
  cls := 3
  brk := 0
  rsp := none
  inReset := inReset
  inputs := inputs
  cfg := cfg

/-- The values of registers 0 to 15, by number (R21). -/
def rwFields (s : State) : List Nat :=
  [s.ctrl.toNat, s.markLen.toNat, s.spaceLen.toNat, s.tol.toNat, s.frameLen.toNat, s.minCls.toNat, s.maxComb.toNat,
   s.startLo.toNat, s.startHi.toNat, s.rgap0.toNat, s.rgap1.toNat, s.rtol.toNat, s.bsLo.toNat, s.bsHi.toNat,
   s.bsLen.toNat, s.lastTs.toNat]

/-- The widths of the fields of registers 0 to 15 (R21). -/
def rwWidths : List Nat := [5, 24, 24, 24, 6, 8, 24, 24, 24, 24, 24, 24, 32, 8, 6, 24]

/-- Everything but registers 0 to 15 is the same. -/
def SameOutsideRw (s t : State) : Prop :=
  t = { s with
    ctrl := t.ctrl, markLen := t.markLen, spaceLen := t.spaceLen, tol := t.tol, frameLen := t.frameLen,
    minCls := t.minCls, maxComb := t.maxComb, startLo := t.startLo, startHi := t.startHi, rgap0 := t.rgap0,
    rgap1 := t.rgap1, rtol := t.rtol, bsLo := t.bsLo, bsHi := t.bsHi, bsLen := t.bsLen, lastTs := t.lastTs }

/-- CFGOK, in numbers (R140). -/
abbrev CfgLegal (s : State) : Prop :=
  1 ≤ s.spaceLen.toNat ∧ s.spaceLen.toNat < s.markLen.toNat ∧ 2 * s.tol.toNat ≤ s.markLen.toNat - s.spaceLen.toNat

/-- FRAMEOK with the frame it admits, in numbers (R180). -/
def frameOf (s : State) : Option Frame :=
  let m := s.ctrl.toNat % 4
  let L := s.frameLen.toNat
  if m = 0 ∧ 1 ≤ L ∧ L ≤ 40 then some ⟨.none, L⟩
  else if m = 1 ∧ (L = 16 ∨ L = 32) then some ⟨.nec, L⟩
  else if m = 2 ∧ L = 40 then some ⟨.dht22, L⟩
  else none

/-- The level of `irq` (R216), with IE_DONE and IE_ERR as bits 3 and 4 of CTRL (R25). -/
def irqLevel (s : State) : Bool := (s.done && s.ctrl.toNat.testBit 3) || (s.err && s.ctrl.toNat.testBit 4)

/-- The value of STATUS, by the places of R36. -/
def statusNumber (s : State) : Nat :=
  s.done.toNat + 2 * s.err.toNat + 4 * s.armed.toNat + 8 * s.repeatGap.toNat
    + 16 * (decide (CfgLegal s)).toNat + 32 * (frameOf s).isSome.toNat + 64 * (irqLevel s).toNat

/-- NEC_HEX, with HEXSEL as bit 2 of CTRL (R199). -/
def necHexOf (s : State) : Nat :=
  let lo := s.bsLo.toNat
  if s.bsLen.toNat = 32 then lo / 2 ^ 24 * 2 ^ 8 + (if s.ctrl.toNat.testBit 2 then lo % 2 ^ 8 else lo / 2 ^ 8 % 2 ^ 8) else 0

/-- NEC_ADDR (R200). -/
def necAddrOf (s : State) : Nat := if s.bsLen.toNat = 32 then s.bsLo.toNat / 2 ^ 16 else 0

/-- NEC_CMD (R201). -/
def necCmdOf (s : State) : Nat := if s.bsLen.toNat = 32 then s.bsLo.toNat % 2 ^ 16 else 0

/-- DHT_HUM (R202). -/
def dhtHumOf (s : State) : Nat := if s.bsLen.toNat = 40 then s.bsHi.toNat * 256 + s.bsLo.toNat / 2 ^ 24 else 0

/-- DHT_TEMP (R203). -/
def dhtTempOf (s : State) : Nat :=
  let raw := s.bsLo.toNat / 2 ^ 8 % 2 ^ 16
  if s.bsLen.toNat = 40 then if raw.testBit 15 then (2 ^ 32 - raw % 2 ^ 15) % 2 ^ 32 else raw % 2 ^ 15 else 0

/-- DHT_CSUM (R204). -/
def dhtCsumOf (s : State) : Nat := if s.bsLen.toNat = 40 then s.bsLo.toNat % 2 ^ 8 else 0

/-- The values of registers 0 to 34, by number (R21). -/
def registerValues (s : State) : List Nat :=
  rwFields s ++
    [statusNumber s, s.errCode.toNat, s.rres.toNat, s.dbuf.length, s.ncls.toNat, s.nruns.toNat, s.ncomb.toNat,
     s.ntried.toNat, s.fb.length, s.vstat.toNat, s.csum.toNat, s.cls.toNat, s.brk.toNat,
     necHexOf s, necAddrOf s, necCmdOf s, dhtHumOf s, dhtTempOf s, dhtCsumOf s]

/-- A read that answers `v` and changes nothing else. -/
def answered (v : Nat) (s : State) : State := { s with rsp := some (BitVec.ofNat 32 v) }

/-! ### Bit strings, classification and combinations -/

/-- `BSV` (R34). -/
def bsvOf (s : State) : Nat := s.bsHi.toNat * 2 ^ 32 + s.bsLo.toNat

/-- The string of length L whose position i is bit L−1−i of `v` (R34). -/
def stringOf (L v : Nat) : Bits := (List.range L).map fun i => v.testBit (L - 1 - i)

/-- BS (R34). -/
def bsBits (s : State) : Bits := stringOf s.bsLen.toNat (bsvOf s)

/-- `classify(d)` (R141), with the distance as an integer's absolute value. -/
def symbolOf (s : State) (d : Ticks) : Symbol :=
  if ((d.toNat : Int) - s.markLen.toNat).natAbs ≤ s.tol.toNat then .mark
  else if ((d.toNat : Int) - s.spaceLen.toNat).natAbs ≤ s.tol.toNat then .space
  else .ambiguous

/-- The codes of R10. -/
def codeOf : Symbol → Nat
  | .space => 0
  | .mark => 1
  | .ambiguous => 2

/-- The Hamming distance of the bytes at positions a..a+7 and a+8..a+15 of a string (R183). -/
def hamming (b : Bits) (a : Nat) : Nat :=
  ((List.range 8).filter fun i => b.getD (a + i) false != b.getD (a + 8 + i) false).length

/-- Byte k of a string, first bit most significant (R64). -/
def byteAt (b : Bits) (k : Nat) : Nat := ((List.range 8).map fun i => (b.getD (8 * k + i) false).toNat * 2 ^ (7 - i)).sum

/-- FB's pattern (R154) from the codes of the durations: one separator stands for each maximal ambiguous run. -/
def collapse : List Symbol → List Symbol
  | [] => []
  | c :: rest => if c = .ambiguous ∧ rest.head? = some .ambiguous then collapse rest else c :: collapse rest

/-- The wrong lengths of the maximal ambiguous runs, in order (R152); `acc` is the run still open. -/
def runSums (s : State) (acc : Option Nat) : List Ticks → List Nat
  | [] => acc.toList
  | d :: ds =>
    if symbolOf s d = .ambiguous then runSums s (some (acc.getD 0 + d.toNat)) ds
    else acc.toList ++ runSums s none ds

/-- The exact product of the candidate-set sizes (R160). -/
def productOf (s : State) : Nat := ((runSums s none s.dbuf).map fun w => (candidates s.timing w).length).prod

/-- Every duration is ambiguous, and there is one: NCLS = 0 and NRUNS ≥ 1 (R156). -/
def AllAmbiguous (s : State) : Prop := s.dbuf ≠ [] ∧ ∀ d ∈ s.dbuf, symbolOf s d = .ambiguous

/-- Some run exceeds R157's bound. -/
def RunTooLong (s : State) : Prop := ∃ w ∈ runSums s none s.dbuf, 3 * s.markLen.toNat + s.tol.toNat < w

/-- The number of durations classified as Mark or Space (R153). -/
def classifiedIn (s : State) : Nat := s.dbuf.countP fun d => decide (symbolOf s d ≠ .ambiguous)

/-- What R155 clears, at 0. -/
def OutputsCleared (t : State) : Prop :=
  t.bsLo = 0 ∧ t.bsHi = 0 ∧ t.bsLen = 0 ∧ t.vstat = 0 ∧ t.csum = 0 ∧ t.ntried = 0

/-- All index vectors below the sizes, rightmost fastest (R162). -/
def vectors : List Nat → List (List Nat)
  | [] => [[]]
  | n :: ns => (List.range n).flatMap fun i => (vectors ns).map (i :: ·)

/-- The vectors the odometer shows from `idx` on, at most `fuel` of them (R162). -/
def odometerRun (sizes : List Nat) : Nat → List Nat → List (List Nat)
  | 0, _ => []
  | fuel + 1, idx =>
    idx :: match odometerNext sizes idx with
      | none => []
      | some idx' => odometerRun sizes fuel idx'

/-- The spliced strings of all combinations, the earliest run varying slowest (R162, R164). -/
def combinations (t : Timing) : List Segment → List Bits
  | [] => [[]]
  | .chunk b :: rest => (combinations t rest).map (b ++ ·)
  | .run w :: rest => (candidates t w).flatMap fun c => (combinations t rest).map (c ++ ·)

/-- The spliced strings a RECON from `s` has to try, in order. -/
def attempts (s : State) : List Bits := combinations s.timing (segments s.timing (s.dbuf.map (·.toNat)))

/-- A combination passes: full length, and validated (R164). -/
def Passes (f : Frame) (b : Bits) : Prop := b.length = f.length ∧ (validate f b).pass = true

/-- The verdict VSTAT and CSUM hold after these strings were tried: that of the last full-length one, or 0 (R164). -/
def lastVerdict (f : Frame) (bs : List Bits) : BitVec 11 × Word :=
  match (bs.filter fun b => decide (b.length = f.length)).getLast? with
  | some b => ((validate f b).vstat, (validate f b).csum)
  | none => (0, 0)

/-- RECON gets as far as enumerating (R151, R156, R157, R161). -/
def Enumerates (s : State) : Prop :=
  CfgLegal s ∧ ¬ AllAmbiguous s ∧ ¬ RunTooLong s ∧ productOf s ≤ s.maxComb.toNat

/-! ### Command sequences and the first error of a word -/

/-- Commands executed one after the other. -/
def runAll : List Instr → State → Host.Outcome State Fault Refusal
  | [], s => .next s
  | i :: is, s =>
    match exec i s with
    | .next t => runAll is t
    | .fault r => .fault r
    | .refused r => .refused r

/-- The error an accepted word raises, by R213's order; none where it raises none. -/
def firstError (w : Word) (s : State) : Option (BitVec 8) :=
  let op := opOf w
  let r := w.toNat / 2 ^ 16 % 64
  let x := w.toNat % 128
  if ∀ row ∈ opcodeRows, op ≠ row.opcode then some 1
  else if ∃ row ∈ opcodeRows, op = row.opcode ∧ w.toNat &&& row.reserved ≠ 0 then some 2
  else if (op = 0x08 ∨ op = 0x09 ∨ op = 0x0A) ∧ 35 ≤ r then some 3
  else if (op = 0x08 ∨ op = 0x09) ∧ 16 ≤ r then some 4
  else if (op = 0x10 ∨ op = 0x11) ∧ s.dbuf.length = s.cfg.nDur then some 5
  else if (op = 0x0B ∧ s.dbuf.length ≤ x) ∨ (op = 0x0C ∧ s.fb.length ≤ x) then some 6
  else if (op = 0x21 ∨ op = 0x30 ∨ op = 0x32) ∧ ¬ CfgLegal s then some 7
  else if (op = 0x30 ∨ op = 0x31) ∧ frameOf s = none then some 7
  else if op = 0x32 ∧ 40 < s.bsLen.toNat then some 8
  else none

end Sys2Proof.Claims

open Sys2Proof.Claims

/-! ### Words and ports -/

/-- Words written out from R84 and R86 (the five examples of R90 among them) decode to the commands they stand for. -/
def Obligations.SampleWordsDecode : Prop :=
  decode 0x080108CA = .ok (.wr 1 2250) ∧ decode 0x0A1D0000 = .ok (.rd 29) ∧ decode 0x10000465 = .ok (.pushd 1125)
    ∧ decode 0x0B000003 = .ok (.rdd 3) ∧ decode 0x30000000 = .ok .recon ∧ decode 0x090A0001 = .ok (.wrh 10 1)
    ∧ decode 0x200034BC = .ok (.wincmp 13500) ∧ decode 0x00000000 = .ok .nop

/-- Decoding an encoded command gives it back, every operand at every value (R83 to R86). -/
def Obligations.DecodeOfEncode : Prop := ∀ i : Instr, decode (encode i) = .ok i

/-- A word that decodes to a command is that command's one encoding (R84, R87: no bit is ignored). -/
def Obligations.EncodeOfDecode : Prop := ∀ (w : Word) (i : Instr), decode w = .ok i → encode i = w

/-- The assembler accepts exactly the well-formed lines, which are those whose operands fit (R90), refuses every other
line, and the command it makes has the line's mnemonic and the line's operands, not cut to their fields. -/
def Obligations.WellFormedLinesAssemble : Prop :=
  ∀ l : SourceLine,
    (l.wellFormed = true ↔ LineFits l) ∧ (l.wellFormed = true ↔ l.assemble.isSome = true)
      ∧ ∀ i : Instr, l.assemble = some i → i.source = l

/-- Where the host offers a word that decodes to `i` and the block is ready (R81), one step is `exec i`; the step only
takes the port edge off the host's list besides (log 1). -/
def Obligations.StepRunsDecodedCommand : Prop :=
  ∀ (s : State) (e : PortEdge) (rest : List PortEdge) (w : Word) (i : Instr),
    s.inputs = e :: rest → e.rstN = true → e.cmd = some w → s.inReset = false → s.rsp = none → decode w = .ok i →
    step s = exec i { s with inputs := rest }

/-- R87: every accepted word is answered by its opcode and reserved bits. -/
def Obligations.EveryWordIsAnswered : Prop :=
  ∀ (s : State) (e : PortEdge) (rest : List PortEdge) (w : Word),
    s.inputs = e :: rest → e.rstN = true → e.cmd = some w → s.inReset = false → s.rsp = none →
    ((∀ row ∈ opcodeRows, opOf w ≠ row.opcode) → step s = .next (errored 1 { s with inputs := rest }))
      ∧ ∀ row ∈ opcodeRows, opOf w = row.opcode →
        (w.toNat &&& row.reserved ≠ 0 → step s = .next (erroredBy row.mnemonic 2 { s with inputs := rest }))
          ∧ (w.toNat &&& row.reserved = 0 →
              ∃ i : Instr, i.mnemonic = row.mnemonic ∧ encode i = w ∧ step s = exec i { s with inputs := rest })

/-- R231: the reset state of the block, and what follows from it. The parameters and the host's side of the ports, which
R231 does not give, are left as the model has them (logs 1, 4 and 6). -/
def Obligations.ResetStateValues : Prop :=
  State.reset = resetState State.reset.cfg State.reset.inReset State.reset.inputs
    ∧ ∀ (cfg : Config) (p : Bool) (inputs : List PortEdge),
        let s := resetState cfg p inputs
        s.statusWord = 0 ∧ s.cfgOk = false ∧ s.frameOk = false ∧ s.irq = false
          ∧ s.necHex = 0 ∧ s.necAddr = 0 ∧ s.necCmd = 0 ∧ s.dhtHum = 0 ∧ s.dhtTemp = 0 ∧ s.dhtCsum = 0

/-- R230: an edge with `rst_n` = 0 resets every piece of state and discards a waiting response, whatever the host offers;
the first edge with `rst_n` = 1 then leaves the block idle and accepts nothing, as the model reads R230 (log 4). -/
def Obligations.ResetEdgeResetsBlock : Prop :=
  (∀ (s : State) (e : PortEdge) (rest : List PortEdge), s.inputs = e :: rest → e.rstN = false →
      step s = .next (resetState s.cfg true rest))
    ∧ ∀ (s : State) (e : PortEdge) (rest : List PortEdge), s.inputs = e :: rest → e.rstN = true → s.inReset = true →
      step s = .next { s with inputs := rest, inReset := false }

/-- R81 and R82: while a response waits no command is accepted; the response stays until an edge with `rsp_ready` = 1,
and at that edge no command is accepted (log 5). -/
def Obligations.WaitingResponseHoldsCommandsOff : Prop :=
  ∀ (s : State) (e : PortEdge) (rest : List PortEdge) (v : Word),
    s.inputs = e :: rest → e.rstN = true → s.inReset = false → s.rsp = some v →
    step s = .next { s with inputs := rest, rsp := if e.rspReady then none else some v }

/-- R221 (power): when no command is offered the block holds its state; a host that drives nothing further is the model's
empty list (logs 1 and 2). -/
def Obligations.IdleEdgesHoldState : Prop :=
  (∀ s : State, s.inputs = [] → step s = .next s)
    ∧ ∀ (s : State) (e : PortEdge) (rest : List PortEdge),
        s.inputs = e :: rest → e.rstN = true → e.cmd = none → s.inReset = false → s.rsp = none →
        step s = .next { s with inputs := rest }

/-- R217: no error stops the block; every step has a next state. -/
def Obligations.StepAlwaysGoesOn : Prop := ∀ s : State, ∃ t : State, step s = .next t

/-! ### Control -/

/-- R100. -/
def Obligations.NopChangesNothing : Prop :=
  (∀ s : State, exec .nop s = .next s) ∧ EncodedN .nop 0x00

/-- R101 and R232: RST has exactly the effect of reset on the state of R231. -/
def Obligations.RstRestoresResetState : Prop :=
  (∀ s : State, exec .rst s = .next (resetState s.cfg false s.inputs)) ∧ EncodedN .rst 0x01

/-- R102. -/
def Obligations.ClrdEmptiesDurationBuffer : Prop :=
  (∀ s : State, exec .clrd s = .next { s with dbuf := [] }) ∧ EncodedN .clrd 0x02

/-- R103, and R218: the acknowledge drops `irq`. -/
def Obligations.ClrstAcknowledges : Prop :=
  (∀ s : State, ∃ t : State, exec .clrst s = .next t ∧ t = { s with done := false, err := false, errCode := 0 } ∧ t.irq = false)
    ∧ EncodedN .clrst 0x03

/-! ### Registers and buffers -/

/-- R110: WR stores imm16 in a read-write register, masked to its field; nothing else changes, and the errors. -/
def Obligations.WrStoresLowHalf : Prop :=
  (∀ (r : BitVec 6) (imm : BitVec 16) (s : State), r.toNat ≤ 15 →
      ∃ t : State, exec (.wr r imm) s = .next t
        ∧ rwFields t = (rwFields s).set r.toNat (imm.toNat % 2 ^ rwWidths.getD r.toNat 0) ∧ SameOutsideRw s t)
    ∧ (∀ (r : BitVec 6) (imm : BitVec 16) (s : State), 16 ≤ r.toNat → r.toNat ≤ 34 → exec (.wr r imm) s = .next (errored 4 s))
    ∧ (∀ (r : BitVec 6) (imm : BitVec 16) (s : State), 35 ≤ r.toNat → exec (.wr r imm) s = .next (errored 3 s))
    ∧ EncodedR .wr .wr 0x08

/-- R111: WRH stores imm16 above the register's low half, masked to its field; nothing else changes, and the errors. -/
def Obligations.WrhStoresHighHalf : Prop :=
  (∀ (r : BitVec 6) (imm : BitVec 16) (s : State), r.toNat ≤ 15 →
      ∃ t : State, exec (.wrh r imm) s = .next t
        ∧ rwFields t = (rwFields s).set r.toNat
            ((imm.toNat * 2 ^ 16 + (rwFields s).getD r.toNat 0 % 2 ^ 16) % 2 ^ rwWidths.getD r.toNat 0)
        ∧ SameOutsideRw s t)
    ∧ (∀ (r : BitVec 6) (imm : BitVec 16) (s : State), 16 ≤ r.toNat → r.toNat ≤ 34 → exec (.wrh r imm) s = .next (errored 4 s))
    ∧ (∀ (r : BitVec 6) (imm : BitVec 16) (s : State), 35 ≤ r.toNat → exec (.wrh r imm) s = .next (errored 3 s))
    ∧ EncodedR .wrh .wrh 0x09

/-- R91: the expansions of LI and LDBS load what they say. -/
def Obligations.LoadPseudosLoad : Prop :=
  (∀ (r v : Nat) (s : State), r ≤ 15 → v < 2 ^ 32 →
      ∃ (is : List Instr) (t : State), (Pseudo.li r v).expand = some is ∧ runAll is s = .next t
        ∧ rwFields t = (rwFields s).set r (v % 2 ^ rwWidths.getD r 0) ∧ SameOutsideRw s t)
    ∧ ∀ (v L : Nat) (s : State), v < 2 ^ 40 → L ≤ 63 →
      ∃ (is : List Instr) (t : State), (Pseudo.ldbs v L).expand = some is ∧ runAll is s = .next t
        ∧ rwFields t = (((rwFields s).set 12 (v % 2 ^ 32)).set 13 (v / 2 ^ 32)).set 14 L ∧ SameOutsideRw s t

/-- R112: RD answers the register's full value, computed at the read, and changes nothing else; and its errors. -/
def Obligations.RdRespondsWithRegister : Prop :=
  (∀ (r : BitVec 6) (s : State), s.BuffersLegal → r.toNat ≤ 34 →
      exec (.rd r) s = .next (answered ((registerValues s).getD r.toNat 0) s))
    ∧ (∀ (r : BitVec 6) (s : State), 35 ≤ r.toNat → exec (.rd r) s = .next (erroredRead 3 s))
    ∧ EncodedQ .rd .rd 0x0A

/-- R199 to R201: the NEC views, in every state. -/
def Obligations.NecViewsRead : Prop :=
  ∀ s : State, exec (.rd 29) s = .next (answered (necHexOf s) s) ∧ exec (.rd 30) s = .next (answered (necAddrOf s) s)
    ∧ exec (.rd 31) s = .next (answered (necCmdOf s) s)

/-- R202 to R204: the DHT22 views, in every state. -/
def Obligations.DhtViewsRead : Prop :=
  ∀ s : State, exec (.rd 32) s = .next (answered (dhtHumOf s) s) ∧ exec (.rd 33) s = .next (answered (dhtTempOf s) s)
    ∧ exec (.rd 34) s = .next (answered (dhtCsumOf s) s)

/-- R216: the interrupt line is a level, and STATUS.IRQ reads the same value. That the line follows the state alone, whatever
`rst_n` is before the edge that samples it, is the model's choice (log 18). -/
def Obligations.InterruptIsALevel : Prop := ∀ s : State, s.irq = irqLevel s ∧ s.statusWord.getLsbD 6 = irqLevel s

/-- R113. -/
def Obligations.RddReadsDurationBuffer : Prop :=
  (∀ (x : BitVec 7) (s : State) (d : Ticks), s.dbuf[x.toNat]? = some d → exec (.rdd x) s = .next (answered d.toNat s))
    ∧ (∀ (x : BitVec 7) (s : State), s.dbuf.length ≤ x.toNat → exec (.rdd x) s = .next (erroredRead 6 s))
    ∧ EncodedI .rdd .rdd 0x0B

/-- R114. -/
def Obligations.RdfReadsFallbackBuffer : Prop :=
  (∀ (x : BitVec 7) (s : State) (c : Symbol), s.fb[x.toNat]? = some c → exec (.rdf x) s = .next (answered (codeOf c) s))
    ∧ (∀ (x : BitVec 7) (s : State), s.fb.length ≤ x.toNat → exec (.rdf x) s = .next (erroredRead 6 s))
    ∧ EncodedI .rdf .rdf 0x0C

/-! ### Input -/

/-- R120. -/
def Obligations.PushdAppends : Prop :=
  (∀ (d : Ticks) (s : State), s.dbuf.length < s.cfg.nDur → exec (.pushd d) s = .next { s with dbuf := s.dbuf ++ [d] })
    ∧ (∀ (d : Ticks) (s : State), s.dbuf.length = s.cfg.nDur → exec (.pushd d) s = .next (errored 5 s))
    ∧ EncodedD .pushd 0x10

/-- R121: the difference wraps modulo 2^24. -/
def Obligations.PushtAppendsDifference : Prop :=
  (∀ (u : Ticks) (s : State), s.dbuf.length < s.cfg.nDur →
      exec (.pusht u) s = .next { s with
        dbuf := s.dbuf ++ [BitVec.ofInt 24 (((u.toNat : Int) - s.lastTs.toNat) % 2 ^ 24)]
        lastTs := u })
    ∧ (∀ (u : Ticks) (s : State), s.dbuf.length = s.cfg.nDur → exec (.pusht u) s = .next (errored 5 s))
    ∧ EncodedD .pusht 0x11

/-- R122. -/
def Obligations.SettSetsStartMarker : Prop :=
  (∀ (u : Ticks) (s : State), exec (.sett u) s = .next { s with lastTs := u }) ∧ EncodedD .sett 0x12

/-! ### Start detector and classifier -/

/-- R131 with R130 and R132: WINCMP in the window arms and matches the repeat gaps; outside it goes Idle and records BREAK. -/
def Obligations.WincmpRunsDetector : Prop :=
  (∀ (d : Ticks) (s : State), s.startLo.toNat ≤ d.toNat → d.toNat ≤ s.startHi.toNat →
      exec (.wincmp d) s = .next { s with
        armed := true
        repeatGap := decide (s.ctrl.toNat % 4 = 1
          ∧ ((s.rgap0.toNat ≠ 0 ∧ ((s.brk.toNat : Int) - s.rgap0.toNat).natAbs ≤ s.rtol.toNat)
            ∨ (s.rgap1.toNat ≠ 0 ∧ ((s.brk.toNat : Int) - s.rgap1.toNat).natAbs ≤ s.rtol.toNat))) })
    ∧ (∀ (d : Ticks) (s : State), ¬ (s.startLo.toNat ≤ d.toNat ∧ d.toNat ≤ s.startHi.toNat) →
      exec (.wincmp d) s = .next { s with armed := false, repeatGap := false, brk := d })
    ∧ EncodedD .wincmp 0x20

/-- R133's properties of WINCMP; with RTOL = 0 the match of an in-window WINCMP is exactly an equality with an enabled gap. -/
def Obligations.WincmpProperties : Prop :=
  ∀ (d : Ticks) (s : State), ∃ t : State, exec (.wincmp d) s = .next t
    ∧ (t.repeatGap = true → t.armed = true)
    ∧ (¬ (s.startLo.toNat ≤ d.toNat ∧ d.toNat ≤ s.startHi.toNat) → t.brk = d)
    ∧ (s.startLo.toNat ≤ d.toNat → d.toNat ≤ s.startHi.toNat → exec (.wincmp d) t = .next t)
    ∧ (s.rtol = 0 → t.repeatGap = true → t.brk = s.rgap0 ∨ t.brk = s.rgap1)
    ∧ (s.rtol = 0 → s.startLo.toNat ≤ d.toNat → d.toNat ≤ s.startHi.toNat →
        (t.repeatGap = true ↔ s.ctrl.toNat % 4 = 1
          ∧ ((s.rgap0.toNat ≠ 0 ∧ s.brk = s.rgap0) ∨ (s.rgap1.toNat ≠ 0 ∧ s.brk = s.rgap1))))

/-- R144 with R140 and R141: CLASS stores the symbol code, or raises ERR_CFG; nothing else changes. -/
def Obligations.ClassStoresSymbol : Prop :=
  (∀ (d : Ticks) (s : State), CfgLegal s →
      exec (.classify d) s = .next { s with cls := BitVec.ofNat 2 (codeOf (symbolOf s d)) })
    ∧ (∀ (d : Ticks) (s : State), ¬ CfgLegal s → exec (.classify d) s = .next (errored 7 s))
    ∧ EncodedD .classify 0x21

/-- R143's boundary properties of a legal configuration. -/
def Obligations.ClassifierBoundaries : Prop :=
  ∀ t : Timing, t.ok = true →
    classify t (t.mark + t.tol) = .mark ∧ classify t (t.mark + t.tol + 1) = .ambiguous
      ∧ classify t t.mark = .mark ∧ classify t t.space = .space
      ∧ (t.tol = (t.mark - t.space) / 2 → ∀ d : Nat, t.space ≤ d + t.tol → d ≤ t.mark + t.tol → classify t d ≠ .ambiguous)
      ∧ (∀ d : Nat, t.space + t.tol < d → d + t.tol < t.mark → classify t d = .ambiguous)
      ∧ (∀ d : Nat, d + t.tol < t.space → classify t d = .ambiguous)
      ∧ (∀ d : Nat, t.mark + t.tol < d → classify t d = .ambiguous)

/-- R142: a duration in both windows is a Mark; under CFGOK the two windows share at most the midpoint. -/
def Obligations.WindowsShareOnlyTheMidpoint : Prop :=
  ∀ (t : Timing) (d : Nat),
    (near d t.mark t.tol = true → near d t.space t.tol = true → classify t d = .mark)
      ∧ (t.ok = true → ((near d t.mark t.tol = true ∧ near d t.space t.tol = true)
          ↔ (2 * t.tol = t.mark - t.space ∧ 2 * d = t.mark + t.space)))

/-- R140 and R180: CFGOK and FRAMEOK, and the commands that raise ERR_CFG without them. -/
def Obligations.ConfigurationChecksGuardCommands : Prop :=
  ∀ s : State,
    s.cfgOk = decide (CfgLegal s) ∧ s.statusWord.getLsbD 4 = decide (CfgLegal s)
      ∧ s.frameConfig = frameOf s ∧ s.statusWord.getLsbD 5 = (frameOf s).isSome
      ∧ (¬ CfgLegal s → ∀ i : Instr, i.mnemonic ∈ [.classify, .recon, .enc] → exec i s = .next (errored 7 s))
      ∧ (frameOf s = none → ∀ i : Instr, i.mnemonic ∈ [.recon, .val] → exec i s = .next (errored 7 s))

/-! ### Validator and encoder -/

/-- R185 with R180: VAL stores the verdict on BS, or raises ERR_CFG; nothing else changes. -/
def Obligations.ValStoresVerdict : Prop :=
  (∀ (s : State) (f : Frame), frameOf s = some f →
      exec .val s = .next { s with
        vstat := (validate f (bsBits s)).vstat, csum := (validate f (bsBits s)).csum, done := true })
    ∧ (∀ s : State, frameOf s = none → exec .val s = .next (errored 7 s))
    ∧ EncodedN .val 0x31

/-- R183: a NEC string passes exactly when each half's Hamming distance is 0 or 8, and VSTAT holds the distances. -/
def Obligations.NecReflectionCheck : Prop :=
  (∀ b : Bits, b.length = 16 →
      let v := validate ⟨.nec, 16⟩ b
      (v.pass = true ↔ hamming b 0 = 0 ∨ hamming b 0 = 8)
        ∧ v.vstat.toNat = hamming b 0 + 0x100 + (if v.pass then 0x600 else 0) ∧ v.csum = 0)
    ∧ ∀ b : Bits, b.length = 32 →
      let v := validate ⟨.nec, 32⟩ b
      (v.pass = true ↔ (hamming b 0 = 0 ∨ hamming b 0 = 8) ∧ (hamming b 16 = 0 ∨ hamming b 16 = 8))
        ∧ v.vstat.toNat = hamming b 0 + 0x10 * hamming b 16 + 0x100 + (if v.pass then 0x600 else 0) ∧ v.csum = 0

/-- R182: a DHT22 string passes exactly when its last byte is the sum of the others modulo 256, and CSUM holds both
checksums and both differences. -/
def Obligations.DhtChecksumCheck : Prop :=
  ∀ b : Bits, b.length = 40 →
    let v := validate ⟨.dht22, 40⟩ b
    let computed := (byteAt b 0 + byteAt b 1 + byteAt b 2 + byteAt b 3) % 256
    let received := byteAt b 4
    (v.pass = true ↔ computed = received)
      ∧ v.csum.toNat = computed + 2 ^ 8 * received + 2 ^ 16 * ((received + 256 - computed) % 256)
          + 2 ^ 24 * ((computed + 256 - received) % 256)
      ∧ v.vstat.toNat = 0x100 + (if v.pass then 0x600 else 0)

/-- R184, last two properties: a string of the wrong length never passes and its outputs are 0; in mode NONE every string
of the expected length passes. -/
def Obligations.ValidatorChecksLengthFirst : Prop :=
  (∀ (f : Frame) (b : Bits), b.length ≠ f.length → validate f b = ⟨0, 0, false⟩)
    ∧ ∀ b : Bits, validate ⟨.none, b.length⟩ b = ⟨0x700, 0, true⟩

/-- R196: writing a string into BS and reading BS back are inverse. -/
def Obligations.PackingIsInverse : Prop :=
  (∀ (b : Bits) (s : State), b.length ≤ 40 →
      bsvOf (packBits b s) = bitsVal b ∧ (packBits b s).bsLen.toNat = b.length ∧ bsBits (packBits b s) = b)
    ∧ ∀ s : State, s.bsLen.toNat ≤ 40 →
      (packBits (bsBits s) s).bsLen = s.bsLen ∧ bsvOf (packBits (bsBits s) s) = bsvOf s % 2 ^ s.bsLen.toNat

/-- R197 with R195: ENC replaces DBUF by the canonical durations of BS, or raises its error; nothing else changes. -/
def Obligations.EncWritesCanonicalDurations : Prop :=
  (∀ s : State, CfgLegal s → s.bsLen.toNat ≤ 40 →
      exec .enc s = .next { s with dbuf := (bsBits s).map fun b => if b then s.markLen else s.spaceLen, done := true })
    ∧ (∀ s : State, CfgLegal s → 40 < s.bsLen.toNat → exec .enc s = .next (errored 8 s))
    ∧ (∀ s : State, ¬ CfgLegal s → exec .enc s = .next (errored 7 s))
    ∧ EncodedN .enc 0x32

/-! ### Reconstructor -/

/-- R151: without CFGOK and FRAMEOK a RECON raises ERR_CFG and changes nothing else. -/
def Obligations.ReconNeedsConfiguration : Prop :=
  (∀ s : State, ¬ (CfgLegal s ∧ (frameOf s).isSome = true) → exec .recon s = .next (errored 7 s))
    ∧ EncodedN .recon 0x30

/-- R214 and R169: a RECON past its configuration check completes with a result code of R167 and DONE, records no
error, and changes only what R169 lists. -/
def Obligations.ReconCompletes : Prop :=
  ∀ (s : State) (f : Frame), CfgLegal s → frameOf s = some f →
    ∃ t : State, exec .recon s = .next t ∧ t.done = true ∧ 1 ≤ t.rres.toNat ∧ t.rres.toNat ≤ 6
      ∧ t = { s with
          done := true, rres := t.rres, fb := t.fb, ncls := t.ncls, nruns := t.nruns, ncomb := t.ncomb,
          ntried := t.ntried, vstat := t.vstat, csum := t.csum, bsLo := t.bsLo, bsHi := t.bsHi, bsLen := t.bsLen }

/-- R153 and R154: NCLS, NRUNS and FB, whatever the result. -/
def Obligations.ReconWritesFallbackPattern : Prop :=
  ∀ (s : State) (f : Frame), s.BuffersLegal → CfgLegal s → frameOf s = some f →
    ∃ t : State, exec .recon s = .next t ∧ t.fb = collapse (s.dbuf.map (symbolOf s))
      ∧ t.ncls.toNat = classifiedIn s ∧ t.nruns.toNat = (runSums s none s.dbuf).length
      ∧ t.fb.length = t.ncls.toNat + t.nruns.toNat ∧ t.fb.length ≤ s.dbuf.length

/-- R155 to R157, R160 and R161: the fail-fast checks in their order, and what they leave cleared. -/
def Obligations.ReconFailsFast : Prop :=
  ∀ (s : State) (f : Frame), CfgLegal s → frameOf s = some f →
    ∃ t : State, exec .recon s = .next t
      ∧ (AllAmbiguous s → t.rres = 4 ∧ t.ncomb = 0 ∧ OutputsCleared t)
      ∧ (¬ AllAmbiguous s → RunTooLong s → t.rres = 5 ∧ t.ncomb = 0 ∧ OutputsCleared t)
      ∧ (¬ AllAmbiguous s → ¬ RunTooLong s → s.maxComb.toNat < productOf s →
          t.rres = 6 ∧ t.ncomb.toNat = min (productOf s) (2 ^ 24 - 1) ∧ OutputsCleared t)

/-- R159 with R158: `cands(W)` holds exactly the strings of 1 to 3 bits whose nominal length is within TOL of W, shorter
first, then by ascending value; at most 14. -/
def Obligations.CandidatesAreThoseWithinTolerance : Prop :=
  ∀ (t : Timing) (w : Nat),
    (∀ c : Bits, c ∈ candidates t w ↔ 1 ≤ c.length ∧ c.length ≤ 3
        ∧ ((w : Int) - (c.count true * t.mark + c.count false * t.space : Nat)).natAbs ≤ t.tol)
      ∧ (candidates t w).Pairwise (fun a b => a.length < b.length ∨ (a.length = b.length ∧ bitsVal a < bitsVal b))
      ∧ (candidates t w).length ≤ 14

/-- R157: beyond the range bound no candidate can match. -/
def Obligations.NoCandidateBeyondRangeBound : Prop :=
  ∀ (t : Timing) (w : Nat), t.ok = true → 3 * t.mark + t.tol < w → candidates t w = []

/-- R162: from the vector of zeros the odometer shows every index vector once, the rightmost index advancing fastest, and
is then exhausted; a size 0 leaves no combination. -/
def Obligations.OdometerVisitsAllInOrder : Prop :=
  ∀ sizes : List Nat,
    odometerRun sizes sizes.prod (sizes.map fun _ => 0) = vectors sizes
      ∧ ((∀ n ∈ sizes, 0 < n) → odometerRun sizes (sizes.prod + 1) (sizes.map fun _ => 0) = vectors sizes)

/-- R163 to R166: RECON accepts the first combination, in odometer order, that has full length and validates; it counts
the combinations it tried, and without one it ends UNVALIDATED or FAIL_FEW with BS empty. -/
def Obligations.ReconFindsFirstCombination : Prop :=
  ∀ (s : State) (f : Frame), Enumerates s → frameOf s = some f →
    ∃ t : State, exec .recon s = .next t ∧ t.ncomb.toNat = (attempts s).length
      ∧ (∀ (k : Nat) (b : Bits), (attempts s)[k]? = some b → Passes f b → (∀ b' ∈ (attempts s).take k, ¬ Passes f b') →
          t.rres = 1 ∧ t.bsLen = s.frameLen ∧ bsvOf t = bitsVal b ∧ bsBits t = b ∧ t.ntried.toNat = k + 1
            ∧ t.vstat = (validate f b).vstat ∧ t.csum = (validate f b).csum)
      ∧ ((∀ b ∈ attempts s, ¬ Passes f b) →
          t.rres = (if s.minCls.toNat ≤ classifiedIn s then 2 else 3) ∧ t.bsLo = 0 ∧ t.bsHi = 0 ∧ t.bsLen = 0
            ∧ t.ntried.toNat = (attempts s).length ∧ (t.vstat, t.csum) = lastVerdict f (attempts s))

/-- R168's round trip: ENC, then RECON, gives the string back, OK, with no ambiguous run and one combination tried.
MAXCOMB ≥ 1 is needed, since with MAXCOMB = 0 every RECON fails (R161; log 16). -/
def Obligations.EncReconRoundTrip : Prop :=
  ∀ (s : State) (f : Frame), CfgLegal s → frameOf s = some f → s.bsLen = s.frameLen → 1 ≤ s.maxComb.toNat →
    (validate f (bsBits s)).pass = true →
    ∃ t u : State, exec .enc s = .next t ∧ exec .recon t = .next u
      ∧ u.rres = 1 ∧ u.bsLen = s.bsLen ∧ bsBits u = bsBits s ∧ u.nruns = 0 ∧ u.ntried = 1

/-- R169: running RECON twice on the same DBUF and registers gives the same results. -/
def Obligations.ReconIsRepeatable : Prop :=
  ∀ (s : State) (f : Frame), CfgLegal s → frameOf s = some f →
    ∃ t : State, exec .recon s = .next t ∧ exec .recon t = .next t

/-! ### The whole machine -/

/-- R211 to R213 and R215: an accepted word raises at most one error, the first in R213's order; then it changes nothing
but ERRCODE and ERR and a read's response, and without one it leaves both as they are, but for RST and CLRST. The premise
is R48's bound on DBUF, a part of State.BuffersLegal, which every step keeps (StepKeepsLegalState). -/
def Obligations.ErrorsArePreciseAndOrdered : Prop :=
  ∀ (w : Word) (s : State), s.dbuf.length ≤ s.cfg.nDur →
    (∀ c : BitVec 8, firstError w s = some c →
        acceptWord w s = .next (if opOf w = 0x0A ∨ opOf w = 0x0B ∨ opOf w = 0x0C then erroredRead c s else errored c s))
      ∧ (firstError w s = none → ∃ t : State, acceptWord w s = .next t
          ∧ (opOf w ≠ 0x01 → opOf w ≠ 0x03 → t.errCode = s.errCode ∧ t.err = s.err)
          ∧ (opOf w = 0x0A ∨ opOf w = 0x0B ∨ opOf w = 0x0C → t.rsp.isSome = true))

/-- Which commands may write which state (R54, R61, R62, and each command's "flags written"): everything else keeps its
value through any command. -/
def Obligations.OnlyTheirCommandsWrite : Prop :=
  ∀ (i : Instr) (s t : State), exec i s = .next t →
    t.cfg = s.cfg ∧ t.inputs = s.inputs
      ∧ (i.mnemonic ∉ [.wr, .wrh, .rst] → (rwFields t).take 12 = (rwFields s).take 12)
      ∧ (i.mnemonic ∉ [.wr, .wrh, .rst, .recon] → t.bsLo = s.bsLo ∧ t.bsHi = s.bsHi ∧ t.bsLen = s.bsLen)
      ∧ (i.mnemonic ∉ [.wr, .wrh, .rst, .pusht, .sett] → t.lastTs = s.lastTs)
      ∧ (i.mnemonic ∉ [.recon, .val, .enc, .clrst, .rst] → t.done = s.done)
      ∧ (i.mnemonic ∈ [.nop, .clrd, .sett, .wincmp] → t.err = s.err ∧ t.errCode = s.errCode)
      ∧ (i.mnemonic ∉ [.clrst, .rst] → (s.err = true → t.err = true) ∧ (s.errCode ≠ 0 → t.errCode = s.errCode))
      ∧ (i.mnemonic ∉ [.wincmp, .rst] → t.armed = s.armed ∧ t.repeatGap = s.repeatGap ∧ t.brk = s.brk)
      ∧ (i.mnemonic ∉ [.recon, .rst] → t.rres = s.rres ∧ t.fb = s.fb ∧ t.ncls = s.ncls ∧ t.nruns = s.nruns
          ∧ t.ncomb = s.ncomb ∧ t.ntried = s.ntried)
      ∧ (i.mnemonic ∉ [.recon, .val, .rst] → t.vstat = s.vstat ∧ t.csum = s.csum)
      ∧ (i.mnemonic ∉ [.classify, .rst] → t.cls = s.cls)
      ∧ (i.mnemonic ∉ [.pushd, .pusht, .enc, .clrd, .rst] → t.dbuf = s.dbuf)
      ∧ (i.mnemonic ∉ [.rd, .rdd, .rdf, .rst] → t.rsp = s.rsp)
      ∧ (i.mnemonic ≠ .rst → t.inReset = s.inReset)

/-- Every step keeps the relations between the fields of State that the rules promise (Safety.lean). -/
def Obligations.StepKeepsLegalState : Prop :=
  ∀ s t : State, s.Legal → step s = .next t → t.Legal

/-- The reset state is legal. -/
def Obligations.ResetStateIsLegal : Prop := State.reset.Legal
end

