-- ==== Sys2Proof/Laws/Bits.lean ====
section
/-! SUPPORT. The laws of the primitives: lengths, positions and values of bit strings (R8), distances (R9, R130). -/

namespace Sys2Proof.Machine

@[simp] theorem bitsOf_length (L v : Nat) : (bitsOf L v).length = L := by
  induction L with
  | zero => rfl
  | succ L ih => simp [bitsOf, ih]

/-- Position i of `bits_L(v)` is bit L−1−i of v (R34). -/
theorem bitsOf_eq_map (L v : Nat) : bitsOf L v = (List.range L).map fun i => v.testBit (L - 1 - i) := by
  induction L with
  | zero => rfl
  | succ L ih =>
    rw [bitsOf, ih, List.range_succ_eq_map]
    simp only [List.map_cons, List.map_map, List.cons.injEq, List.map_inj_left, List.mem_range]
    exact ⟨by simp, fun i hi => by simp only [Function.comp]; congr 1; omega⟩

/-- `bits_L` ignores the bits at and above L (R34). -/
theorem bitsOf_mod (L v : Nat) : bitsOf L (v % 2 ^ L) = bitsOf L v := by
  rw [bitsOf_eq_map, bitsOf_eq_map]
  apply List.map_congr_left
  intro i hi
  simp only [List.mem_range] at hi
  rw [Nat.testBit_mod_two_pow]
  simp [show L - 1 - i < L by omega]

theorem bitsVal_foldl (acc : Nat) (b : Bits) :
    b.foldl (fun acc b => 2 * acc + b.toNat) acc = acc * 2 ^ b.length + bitsVal b := by
  induction b generalizing acc with
  | nil => simp [bitsVal]
  | cons x b ih =>
    have h : bitsVal (x :: b) = x.toNat * 2 ^ b.length + bitsVal b := by
      simp only [bitsVal, List.foldl_cons, Nat.mul_zero, Nat.zero_add]; rw [ih x.toNat]; rfl
    simp only [List.foldl_cons, List.length_cons, h]
    rw [ih, pow_succ]; ring

@[simp] theorem bitsVal_nil : bitsVal [] = 0 := rfl

/-- The first bit received is the most significant (R8). -/
theorem bitsVal_cons (x : Bool) (b : Bits) : bitsVal (x :: b) = x.toNat * 2 ^ b.length + bitsVal b := by
  have h := bitsVal_foldl x.toNat b
  simp only [bitsVal, List.foldl_cons, Nat.mul_zero, Nat.zero_add] at h ⊢
  exact h

theorem bitsVal_lt (b : Bits) : bitsVal b < 2 ^ b.length := by
  induction b with
  | nil => simp
  | cons x b ih =>
    rw [bitsVal_cons, List.length_cons, pow_succ]
    cases x <;> simp <;> omega

/-- `bits_L` inverts `val` (R8). -/
theorem bitsOf_bitsVal (b : Bits) : bitsOf b.length (bitsVal b) = b := by
  induction b with
  | nil => rfl
  | cons x b ih =>
    have hlt := bitsVal_lt b
    rw [List.length_cons, bitsOf, bitsVal_cons]
    congr 1
    · cases x
      · simpa using Nat.testBit_lt_two_pow hlt
      · simp [Nat.testBit_two_pow_add_eq, Nat.testBit_lt_two_pow hlt]
    · rw [← bitsOf_mod, Nat.add_mod, Nat.mul_mod_left, Nat.zero_add, Nat.mod_mod, bitsOf_mod, ih]

/-- `val` inverts `bits_L` up to the bits that `bits_L` ignores (R8, R34). -/
theorem bitsVal_bitsOf (L v : Nat) : bitsVal (bitsOf L v) = v % 2 ^ L := by
  induction L with
  | zero => simp [bitsOf, Nat.mod_one]
  | succ L ih =>
    rw [bitsOf, bitsVal_cons, bitsOf_length, ih]
    rw [Nat.mod_pow_succ, Nat.testBit_eq_decide_div_mod_eq]
    rcases Nat.mod_two_eq_zero_or_one (v / 2 ^ L) with h | h <;> simp [h]; omega

@[simp] theorem absdiff_eq (a b : Nat) : absdiff a b = ((a : Int) - b).natAbs := by
  unfold absdiff; omega

theorem near_iff (d c tol : Nat) : near d c tol = true ↔ ((d : Int) - c).natAbs ≤ tol := by
  simp [near]

/-- A duration is near a centre when it is in the window around it (R130). -/
theorem near_iff_window (d c tol : Nat) : near d c tol = true ↔ c ≤ d + tol ∧ d ≤ c + tol := by
  rw [near_iff]; omega

theorem inWindow_iff (d lo hi : Nat) : inWindow d lo hi = true ↔ lo ≤ d ∧ d ≤ hi := by
  simp [inWindow]

end Sys2Proof.Machine
end

