-- ==== Sys2Proof/Laws/Encoding.lean ====
section
/-! SUPPORT. The laws of the command word: its fields (spec/30_encoding.md R83, R85), the opcode map read both ways (R86),
and what decoding can answer (R87). -/

namespace Sys2Proof

theorem ofOpcode_opcode (m : Mnemonic) : Mnemonic.ofOpcode m.opcode = some m := by cases m <;> decide

/-- A mnemonic that `ofOpcode` answers has that opcode (R86). -/
theorem opcode_of_ofOpcode {op : BitVec 8} {m : Mnemonic} (h : Mnemonic.ofOpcode op = some m) : m.opcode = op := by
  have := List.find?_some h
  simpa using this

/-- Bit k of a word built from an opcode and an operand field (R83). -/
theorem getLsbD_word (op : BitVec 8) (x : BitVec 24) (k : Nat) :
    (op ++ x : Word).getLsbD k = if k < 24 then x.getLsbD k else op.getLsbD (k - 24) :=
  BitVec.getLsbD_append

/-- The value of a word built from an opcode and an operand field (R83). -/
theorem toNat_word (op : BitVec 8) (x : BitVec 24) : (op ++ x : Word).toNat = op.toNat * 2 ^ 24 + x.toNat := by
  refine (BitVec.toNat_append op x).trans ?_
  rw [← Nat.shiftLeft_add_eq_or_of_lt x.isLt, Nat.shiftLeft_eq]

/-- Bit k of format R's operand field (R84). -/
theorem getLsbD_regImm (r : BitVec 6) (imm : BitVec 16) (k : Nat) :
    (0#2 ++ r ++ imm : BitVec 24).getLsbD k
      = if k < 16 then imm.getLsbD k else if k < 22 then r.getLsbD (k - 16) else false := by
  refine (BitVec.getLsbD_append (x := 0#2 ++ r) (y := imm)).trans ?_
  rw [BitVec.getLsbD_append]
  split <;> [rfl; (split <;> split <;> first | omega | simp_all)]

/-- Bit k of format I's operand field (R84). -/
theorem getLsbD_index (x : BitVec 7) (k : Nat) :
    (0#17 ++ x : BitVec 24).getLsbD k = if k < 7 then x.getLsbD k else false := by
  refine (BitVec.getLsbD_append (x := 0#17) (y := x)).trans ?_
  simp

/-- The opcode field of a word built from an opcode and an operand field (R83). -/
@[simp] theorem opcodeField_append (op : BitVec 8) (x : BitVec 24) : opcodeField (op ++ x) = op := by
  apply BitVec.eq_of_getLsbD_eq
  intro k hk
  simp only [opcodeField, BitVec.getLsbD_extractLsb', getLsbD_word, hk, decide_true, Bool.true_and]
  simp

/-- The operand field of a word built from an opcode and an operand field (R83, R85). -/
@[simp] theorem dataField_append (op : BitVec 8) (x : BitVec 24) : dataField (op ++ x) = x := by
  apply BitVec.eq_of_getLsbD_eq
  intro k hk
  simp only [dataField, BitVec.getLsbD_extractLsb', getLsbD_word, hk, decide_true, Bool.true_and]
  simp [hk]

@[simp] theorem opcodeField_encode (i : Instr) : opcodeField (encode i) = i.mnemonic.opcode := by simp [encode]

/-- A word is its opcode field and its operand field (R83). -/
theorem word_eq_append (w : Word) : w = opcodeField w ++ dataField w := by
  apply BitVec.eq_of_toNat_eq
  rw [toNat_word]
  simp only [opcodeField, dataField, BitVec.extractLsb'_toNat, Nat.shiftRight_eq_div_pow]
  omega

/-- What decoding answers (R87): once, all it can do. -/
theorem decode_cases (w : Word) :
    (Mnemonic.ofOpcode (opcodeField w) = none ∧ decode w = .error .illegalOpcode)
      ∨ ∃ m, m.opcode = opcodeField w ∧
        ((w &&& m.format.reserved ≠ 0 ∧ decode w = .error (.reservedBits m))
          ∨ (w &&& m.format.reserved = 0 ∧ decode w = .ok (m.withOperands w))) := by
  unfold decode
  cases h : Mnemonic.ofOpcode (opcodeField w) with
  | none => exact .inl ⟨rfl, rfl⟩
  | some m =>
    refine .inr ⟨m, opcode_of_ofOpcode h, ?_⟩
    by_cases hr : w &&& m.format.reserved = 0
    · exact .inr ⟨hr, if_pos hr⟩
    · exact .inl ⟨hr, if_neg hr⟩

/-- Decoding a word of a known mnemonic whose reserved bits are 0. -/
theorem decode_ok {w : Word} {m : Mnemonic} (h : opcodeField w = m.opcode) (hr : w &&& m.format.reserved = 0) :
    decode w = .ok (m.withOperands w) := by
  rw [decode, h, ofOpcode_opcode]; exact if_pos hr

/-- Decoding a word of a known mnemonic with a reserved bit set. -/
theorem decode_reserved {w : Word} {m : Mnemonic} (h : opcodeField w = m.opcode) (hr : w &&& m.format.reserved ≠ 0) :
    decode w = .error (.reservedBits m) := by
  rw [decode, h, ofOpcode_opcode]; exact if_neg hr

@[simp] theorem withOperands_mnemonic (m : Mnemonic) (w : Word) : (m.withOperands w).mnemonic = m := by cases m <;> rfl

end Sys2Proof
end

