-- ==== Sys2Proof/Laws/Flags.lean ====
section
/-! SUPPORT. The laws of the flags and of the classifier, in numbers: CFGOK (spec/44_classifier.md R140), MODE
(spec/10_state.md R25), FRAMEOK (spec/46_validator.md R180), VSTAT's fields (R43) and `classify` (R141). -/

namespace Sys2Proof.Machine

theorem timing_ok_iff (t : Timing) : t.ok = true ↔ 1 ≤ t.space ∧ t.space < t.mark ∧ 2 * t.tol ≤ t.mark - t.space := by
  simp [Timing.ok, and_assoc]

theorem cfgOk_iff (s : State) :
    s.cfgOk = true ↔ 1 ≤ s.spaceLen.toNat ∧ s.spaceLen.toNat < s.markLen.toNat
      ∧ 2 * s.tol.toNat ≤ s.markLen.toNat - s.spaceLen.toNat :=
  timing_ok_iff s.timing

/-- MODE is CTRL's value modulo 4. -/
theorem mode_eq (s : State) :
    s.mode = match s.ctrl.toNat % 4 with | 0 => .none | 1 => .nec | 2 => .dht22 | _ => .reserved := by
  unfold State.mode
  generalize s.ctrl = c
  revert c
  decide

/-- A legal frame configuration expects FRAME_LEN bits, from 1 to 40 of them. -/
theorem frameConfig_length {s : State} {f : Frame} (h : s.frameConfig = some f) :
    f.length = s.frameLen.toNat ∧ 1 ≤ f.length ∧ f.length ≤ 40 := by
  unfold State.frameConfig at h
  dsimp only at h
  split at h
  · split at h <;> cases h
    rename_i hL
    exact ⟨rfl, hL.1, hL.2⟩
  · split at h <;> cases h
    rename_i hL
    exact ⟨rfl, by dsimp only; omega, by dsimp only; omega⟩
  · split at h <;> cases h
    rename_i hL
    exact ⟨rfl, by dsimp only; omega, by dsimp only; omega⟩
  · cases h

/-- VSTAT as a number: MM0, MM1, LENOK, PROTOK and PASS at their places. -/
theorem toNat_vstatOf {mm0 mm1 : Nat} (p : Bool) (h0 : mm0 ≤ 8) (h1 : mm1 ≤ 8) :
    (vstatOf mm0 mm1 p).toNat = mm0 + 16 * mm1 + 256 + if p then 0x600 else 0 := by
  interval_cases mm0 <;> interval_cases mm1 <;> cases p <;> rfl

/-- `classify` by its two windows, Mark first. -/
theorem classify_eq_ite (t : Timing) (d : Nat) :
    classify t d =
      if t.mark ≤ d + t.tol ∧ d ≤ t.mark + t.tol then .mark
      else if t.space ≤ d + t.tol ∧ d ≤ t.space + t.tol then .space
      else .ambiguous := by
  unfold classify
  simp only [near_iff_window]

end Sys2Proof.Machine
end

