-- ==== Sys2Proof/Laws/PerInstr.lean ====
section
/-! SUPPORT. Per command: its encoded word has its mnemonic's opcode and 0 in every reserved position (spec/30_encoding.md
R84, R86), and its assembler line is well formed (R90). -/

namespace Sys2Proof.Laws.EncodedWord

def Statement (i : Instr) : Prop :=
  opcodeField (encode i) = i.mnemonic.opcode ∧ encode i &&& i.mnemonic.format.reserved = 0 ∧ i.wellFormed = true

theorem nop : Statement .nop := by refine ⟨?_, ?_, ?_⟩ <;> decide
theorem rst : Statement .rst := by refine ⟨?_, ?_, ?_⟩ <;> decide
theorem clrd : Statement .clrd := by refine ⟨?_, ?_, ?_⟩ <;> decide
theorem clrst : Statement .clrst := by refine ⟨?_, ?_, ?_⟩ <;> decide
theorem recon : Statement .recon := by refine ⟨?_, ?_, ?_⟩ <;> decide
theorem val : Statement .val := by refine ⟨?_, ?_, ?_⟩ <;> decide
theorem enc : Statement .enc := by refine ⟨?_, ?_, ?_⟩ <;> decide

/-- The reserved positions of format R are 0 in a word built for it. -/
theorem regImm_reserved (op : BitVec 8) (r : BitVec 6) (imm : BitVec 16) :
    ((op ++ (0#2 ++ r ++ imm : BitVec 24)) : Word) &&& Format.regImm.reserved = 0 := by
  refine BitVec.eq_of_getLsbD_eq fun k hk => ?_
  rw [BitVec.getLsbD_and, getLsbD_word, getLsbD_regImm]
  replace hk : k < 32 := hk
  interval_cases k <;> simp [Format.reserved]

/-- The reserved positions of format Q are 0 in a word built for it. -/
theorem query_reserved (op : BitVec 8) (r : BitVec 6) :
    ((op ++ (0#2 ++ r ++ 0#16 : BitVec 24)) : Word) &&& Format.query.reserved = 0 := by
  refine BitVec.eq_of_getLsbD_eq fun k hk => ?_
  rw [BitVec.getLsbD_and, getLsbD_word, getLsbD_regImm]
  replace hk : k < 32 := hk
  interval_cases k <;> simp [Format.reserved]

/-- The reserved positions of format I are 0 in a word built for it. -/
theorem index_reserved (op : BitVec 8) (x : BitVec 7) :
    ((op ++ (0#17 ++ x : BitVec 24)) : Word) &&& Format.index.reserved = 0 := by
  refine BitVec.eq_of_getLsbD_eq fun k hk => ?_
  rw [BitVec.getLsbD_and, getLsbD_word, getLsbD_index]
  replace hk : k < 32 := hk
  interval_cases k <;> simp [Format.reserved]

theorem wr (r : BitVec 6) (imm16 : BitVec 16) : Statement (.wr r imm16) :=
  ⟨opcodeField_encode _, regImm_reserved _ r imm16, by
    simp [Instr.wellFormed, SourceLine.wellFormed, Instr.source, Instr.mnemonic, Mnemonic.format]; omega⟩
theorem wrh (r : BitVec 6) (imm16 : BitVec 16) : Statement (.wrh r imm16) :=
  ⟨opcodeField_encode _, regImm_reserved _ r imm16, by
    simp [Instr.wellFormed, SourceLine.wellFormed, Instr.source, Instr.mnemonic, Mnemonic.format]; omega⟩
theorem rd (r : BitVec 6) : Statement (.rd r) :=
  ⟨opcodeField_encode _, query_reserved _ r, by
    simp [Instr.wellFormed, SourceLine.wellFormed, Instr.source, Instr.mnemonic, Mnemonic.format]; omega⟩
theorem rdd (x : BitVec 7) : Statement (.rdd x) :=
  ⟨opcodeField_encode _, index_reserved _ x, by
    simp [Instr.wellFormed, SourceLine.wellFormed, Instr.source, Instr.mnemonic, Mnemonic.format]; omega⟩
theorem rdf (x : BitVec 7) : Statement (.rdf x) :=
  ⟨opcodeField_encode _, index_reserved _ x, by
    simp [Instr.wellFormed, SourceLine.wellFormed, Instr.source, Instr.mnemonic, Mnemonic.format]; omega⟩
theorem pushd (d : Ticks) : Statement (.pushd d) :=
  ⟨opcodeField_encode _, BitVec.and_zero, by
    simp [Instr.wellFormed, SourceLine.wellFormed, Instr.source, Instr.mnemonic, Mnemonic.format]; omega⟩
theorem pusht (t : Ticks) : Statement (.pusht t) :=
  ⟨opcodeField_encode _, BitVec.and_zero, by
    simp [Instr.wellFormed, SourceLine.wellFormed, Instr.source, Instr.mnemonic, Mnemonic.format]; omega⟩
theorem sett (t : Ticks) : Statement (.sett t) :=
  ⟨opcodeField_encode _, BitVec.and_zero, by
    simp [Instr.wellFormed, SourceLine.wellFormed, Instr.source, Instr.mnemonic, Mnemonic.format]; omega⟩
theorem wincmp (d : Ticks) : Statement (.wincmp d) :=
  ⟨opcodeField_encode _, BitVec.and_zero, by
    simp [Instr.wellFormed, SourceLine.wellFormed, Instr.source, Instr.mnemonic, Mnemonic.format]; omega⟩
theorem classify (d : Ticks) : Statement (.classify d) :=
  ⟨opcodeField_encode _, BitVec.and_zero, by
    simp [Instr.wellFormed, SourceLine.wellFormed, Instr.source, Instr.mnemonic, Mnemonic.format]; omega⟩

end Sys2Proof.Laws.EncodedWord
end

