-- ==== Sys2Proof/Laws/Ports.lean ====
section
/-! SUPPORT. The laws of the ports and the step: once, all that an accepted word, a clock edge and a step can do
(spec/30_encoding.md R81, R82, R87, spec/70_reset_and_hazards.md R230). -/

namespace Sys2Proof.Machine

/-- Every command has a next state (spec/60_exceptions.md R217). -/
theorem exec_answers_next (i : Instr) (s : State) : ∃ t, exec i s = .next t := by
  cases i <;> exact ⟨_, rfl⟩

/-- What accepting a word can answer: its command, or its error recorded. -/
theorem acceptWord_cases {w : Word} {s t : State} (h : acceptWord w s = .next t) :
    (∃ i, decode w = .ok i ∧ exec i s = .next t) ∨ ∃ e, decode w = .error e ∧ t = rejectWord e s := by
  unfold acceptWord at h
  cases hd : decode w with
  | ok i => rw [hd] at h; exact .inl ⟨i, rfl, h⟩
  | error e => rw [hd] at h; cases h; exact .inr ⟨e, rfl, rfl⟩

/-- What a clock edge can do: reset; the first edge after it; hold while a response waits, which the host may take; idle;
accept a word. -/
theorem clockEdge_cases {e : PortEdge} {s t : State} (h : clockEdge e s = .next t) :
    (e.rstN = false ∧ t = { resetBlock s with inReset := true })
      ∨ (e.rstN = true ∧ s.inReset = true ∧ t = { s with inReset := false })
      ∨ (e.rstN = true ∧ s.inReset = false ∧ s.rspValid = true ∧ t = takeResponse e.rspReady s)
      ∨ (e.rstN = true ∧ s.inReset = false ∧ s.rspValid = false ∧ e.cmd = none ∧ t = s)
      ∨ ∃ w, e.rstN = true ∧ s.inReset = false ∧ s.rspValid = false ∧ e.cmd = some w ∧ acceptWord w s = .next t := by
  unfold clockEdge at h
  cases hr : e.rstN with
  | false => rw [hr] at h; cases h; exact .inl ⟨rfl, rfl⟩
  | true =>
    cases hi : s.inReset with
    | true => simp only [hr, hi, if_true] at h; cases h; exact .inr (.inl ⟨rfl, rfl, rfl⟩)
    | false =>
      cases hv : s.rspValid with
      | true =>
        simp only [hr, hi, hv, State.cmdReady, State.busy] at h
        cases h
        exact .inr (.inr (.inl ⟨rfl, rfl, rfl, rfl⟩))
      | false =>
        simp only [hr, hi, hv, State.cmdReady, State.busy] at h
        cases hc : e.cmd with
        | none => rw [hc] at h; cases h; exact .inr (.inr (.inr (.inl ⟨rfl, rfl, rfl, rfl, rfl⟩)))
        | some w => rw [hc] at h; exact .inr (.inr (.inr (.inr ⟨w, rfl, rfl, rfl, rfl, h⟩)))

/-- What a step can do: hold, or apply the next port edge. -/
theorem step_cases {s t : State} (h : step s = .next t) :
    (s.inputs = [] ∧ t = s) ∨ ∃ e rest, s.inputs = e :: rest ∧ clockEdge e { s with inputs := rest } = .next t := by
  unfold step at h
  cases hi : s.inputs with
  | nil => rw [hi] at h; cases h; exact .inl ⟨rfl, rfl⟩
  | cons e rest => rw [hi] at h; exact .inr ⟨e, rest, rfl, h⟩

end Sys2Proof.Machine
end

