-- ==== Sys2Proof/Laws/Validator.lean ====
section
/-! SUPPORT. The laws of the validator's parts: slices by position, mismatch counts and their range (spec/46_validator.md
R183), bytes and the checksum word (R182), and the strings BS holds (spec/10_state.md R34). -/

namespace Sys2Proof.Machine

/-- A slice inside a string, position by position. -/
theorem slice_eq_map (b : Bits) (a n : Nat) (h : a + n ≤ b.length) :
    slice b a (a + n) = (List.range n).map fun i => b.getD (a + i) false := by
  apply List.ext_getElem
  · simp [slice]; omega
  · intro i h1 h2
    simp [slice] at h1 ⊢
    rw [List.getElem?_eq_getElem (by omega)]; rfl

/-- A half has 8 positions to differ at. -/
theorem halfMismatches_le (b : Bits) (a : Nat) : halfMismatches b a ≤ 8 := by
  unfold halfMismatches mismatches
  refine List.count_le_length.trans ?_
  simp [slice]

/-- CSUM as a number: CALC, READ, DIFF_RC and DIFF_CR at their places (R44). -/
theorem toNat_checksumWord (computed received : BitVec 8) :
    (((computed - received) ++ (received - computed) ++ received ++ computed : Word)).toNat
      = computed.toNat + 2 ^ 8 * received.toNat + 2 ^ 16 * ((received.toNat + 256 - computed.toNat) % 256)
        + 2 ^ 24 * ((computed.toNat + 256 - received.toNat) % 256) := by
  have h1 := computed.isLt
  have h2 := received.isLt
  refine (BitVec.toNat_append _ _).trans ?_
  rw [BitVec.toNat_append, BitVec.toNat_append, ← Nat.shiftLeft_add_eq_or_of_lt computed.isLt,
    ← Nat.shiftLeft_add_eq_or_of_lt received.isLt, ← Nat.shiftLeft_add_eq_or_of_lt (received - computed).isLt]
  simp only [Nat.shiftLeft_eq, BitVec.toNat_sub]
  omega

/-- A string of the wrong length has the verdict 0 (R181). -/
theorem validate_of_length_ne {f : Frame} {b : Bits} (h : b.length ≠ f.length) : validate f b = ⟨0, 0, false⟩ := if_neg h

@[simp] theorem bitString_length (s : State) : s.bitString.length = s.bsLen.toNat := by simp [State.bitString]

end Sys2Proof.Machine
end

