-- ==== Sys2Proof/Laws/Reconstructor.lean ====
section
/-! SUPPORT. The laws of the reconstructor's parts (spec/45_reconstructor.md): segments and their pattern (R152, R154),
candidates (R158, R159), the product (R160), one combination evaluated (R163, R164) and the report's phases. -/

namespace Sys2Proof.Machine

theorem wrongLengths_append (a b : List Segment) : wrongLengths (a ++ b) = wrongLengths a ++ wrongLengths b := by
  induction a with
  | nil => rfl
  | cons x a ih => cases x <;> simp [wrongLengths, ih]

theorem fallbackPattern_append (a b : List Segment) : fallbackPattern (a ++ b) = fallbackPattern a ++ fallbackPattern b := by
  simp [fallbackPattern]

/-- An ambiguous duration joins the run at the end, or starts one. -/
theorem extendSegments_ambiguous {t : Timing} {d : Nat} (h : classify t d = .ambiguous) (segs : List Segment) :
    extendSegments t segs d = match segs with | .run w :: rest => .run (w + d) :: rest | segs => .run d :: segs := by
  unfold extendSegments
  rw [h]
  rcases segs with _ | ⟨_ | _, _⟩ <;> rfl

/-- A classified duration joins the chunk at the end, or starts one. -/
theorem extendSegments_classified {t : Timing} {d : Nat} (h : classify t d ≠ .ambiguous) (segs : List Segment) :
    extendSegments t segs d =
      match segs with
      | .chunk bits :: rest => .chunk (bits ++ [decide (classify t d = .mark)]) :: rest
      | segs => .chunk [decide (classify t d = .mark)] :: segs := by
  unfold extendSegments
  cases hc : classify t d with
  | ambiguous => exact absurd hc h
  | mark => rcases segs with _ | ⟨_ | _, _⟩ <;> rfl
  | space => rcases segs with _ | ⟨_ | _, _⟩ <;> rfl

/-- The strings R159 goes through, in its order. -/
theorem allCandidates_eq :
    allCandidates =
      [[false], [true], [false, false], [false, true], [true, false], [true, true],
       [false, false, false], [false, false, true], [false, true, false], [false, true, true],
       [true, false, false], [true, false, true], [true, true, false], [true, true, true]] := by
  decide

/-- A nominal length counts the Marks and the Spaces. -/
theorem nominal_eq_count (t : Timing) (c : Bits) : nominal t c = c.count true * t.mark + c.count false * t.space := by
  induction c with
  | nil => simp [nominal]
  | cons b c ih =>
    have h : nominal t (b :: c) = (if b then t.mark else t.space) + nominal t c := by simp [nominal]
    rw [h, ih]
    cases b <;> simp <;> ring

theorem productSize_eq_prod (sets : List (List Bits)) : productSize sets = (sets.map List.length).prod := by
  induction sets with
  | nil => rfl
  | cons a l ih => simp only [productSize, List.foldr_cons, List.map_cons, List.prod_cons] at *; rw [ih]

/-- A combination of the wrong length is counted only. -/
theorem visit_of_length_ne {f : Frame} {b : Bits} (h : b.length ≠ f.length) (a : Search) :
    a.visit f b = { a with tried := a.tried + 1 } := if_neg h

/-- A full-length combination is counted and validated, and accepted where it passes. -/
theorem visit_of_length_eq {f : Frame} {b : Bits} (h : b.length = f.length) (a : Search) :
    a.visit f b = ⟨a.tried + 1, (validate f b).vstat, (validate f b).csum, if (validate f b).pass then some b else none⟩ :=
  if_pos h

@[simp] theorem visit_tried (f : Frame) (b : Bits) (a : Search) : (a.visit f b).tried = a.tried + 1 := by
  unfold Search.visit; split <;> rfl

/-- What one turn of ENUMERATE can do: accept, run out of combinations, or go on to the next. -/
theorem enumerate_succ_cases (f : Frame) (segs : List Segment) (sets : List (List Bits)) (fuel : Nat) (idx : List Nat)
    (a : Search) :
    let a' := a.visit f (splice segs (chosen sets idx))
    (a'.found ≠ none ∧ enumerate f segs sets (fuel + 1) idx a = a')
      ∨ (a'.found = none ∧ odometerNext (sets.map List.length) idx = none ∧ enumerate f segs sets (fuel + 1) idx a = a')
      ∨ ∃ idx', a'.found = none ∧ odometerNext (sets.map List.length) idx = some idx'
          ∧ enumerate f segs sets (fuel + 1) idx a = enumerate f segs sets fuel idx' a' := by
  intro a'
  rw [enumerate]
  cases hf : a'.found with
  | some b => exact .inl ⟨by simp, by simp only [a']⟩
  | none =>
    cases hn : odometerNext (sets.map List.length) idx with
    | none => exact .inr (.inl ⟨rfl, rfl, by simp only [a']⟩)
    | some idx' => exact .inr (.inr ⟨idx', rfl, rfl, by simp only [a']⟩)

/-- What CLASSIFY writes is in every report (R153, R154). -/
theorem reconstruct_classify (t : Timing) (f : Frame) (minCls maxComb : Nat) (ds : List Nat) :
    (reconstruct t f minCls maxComb ds).fb = fallbackPattern (segments t ds)
      ∧ (reconstruct t f minCls maxComb ds).ncls = classifiedCount t ds
      ∧ (reconstruct t f minCls maxComb ds).nruns = (wrongLengths (segments t ds)).length := by
  unfold reconstruct
  dsimp only
  repeat' split
  all_goals exact ⟨rfl, rfl, rfl⟩

end Sys2Proof.Machine
end

