-- ==== Sys2Proof/Laws/Registers.lean ====
section
/-! SUPPORT. The laws of the register file: which register a number names (spec/10_state.md R21, R23, R24), what a write
leaves in every register (R22), and what a register write or a buffer read can answer (R110, R111, R113, R114). -/

namespace Sys2Proof.Machine

/-- The number of a read-write register (R21). -/
def RwReg.number : RwReg → Nat
  | .ctrl => 0 | .markLen => 1 | .spaceLen => 2 | .tol => 3 | .frameLen => 4 | .minCls => 5 | .maxComb => 6
  | .startLo => 7 | .startHi => 8 | .rgap0 => 9 | .rgap1 => 10 | .rtol => 11 | .bsLo => 12 | .bsHi => 13
  | .bsLen => 14 | .lastTs => 15

/-- The width of a read-write register's field (R21). -/
def RwReg.width : RwReg → Nat
  | .ctrl => 5 | .frameLen => 6 | .bsLen => 6 | .minCls => 8 | .bsHi => 8 | .bsLo => 32
  | .markLen | .spaceLen | .tol | .maxComb | .startLo | .startHi | .rgap0 | .rgap1 | .rtol | .lastTs => 24

/-- Numbers 0 to 15 name the read-write registers. -/
theorem ofNumber_rw {r : BitVec 6} (h : r.toNat ≤ 15) : ∃ q, RegName.ofNumber r = .rw q ∧ q.number = r.toNat := by
  unfold RegName.ofNumber
  interval_cases r.toNat <;> exact ⟨_, rfl, rfl⟩

/-- Numbers 16 to 34 name read-only registers. -/
theorem ofNumber_ro {r : BitVec 6} (h : 16 ≤ r.toNat) (h' : r.toNat ≤ 34) : ∃ q, RegName.ofNumber r = .ro q := by
  unfold RegName.ofNumber
  interval_cases r.toNat <;> exact ⟨_, rfl⟩

/-- Numbers from 35 on name no register. -/
theorem ofNumber_undefined {r : BitVec 6} (h : 35 ≤ r.toNat) : RegName.ofNumber r = .undefined := by
  have h' : r.toNat < 64 := r.isLt
  unfold RegName.ofNumber
  interval_cases r.toNat <;> rfl

/-- A register reads back what was stored, masked to its field. -/
theorem readRw_writeRw_same (q : RwReg) (v : Word) (s : State) :
    readRw (writeRw q v s) q = (v.setWidth q.width).setWidth 32 := by
  cases q <;> simp [readRw, writeRw, RwReg.width]

/-- A write leaves every other register as it was. -/
theorem readRw_writeRw_of_ne {p q : RwReg} (h : p ≠ q) (v : Word) (s : State) :
    readRw (writeRw q v s) p = readRw s p := by
  cases q <;> cases p <;> first | rfl | exact absurd rfl h

/-- What a register write can answer: an error recorded, or one register stored. -/
theorem writeRegister_cases (r : BitVec 6) (value : Word → Word) (s : State) :
    (35 ≤ r.toNat ∧ writeRegister r value s = raiseError .badReg s)
      ∨ (16 ≤ r.toNat ∧ r.toNat ≤ 34 ∧ writeRegister r value s = raiseError .ro s)
      ∨ ∃ q, q.number = r.toNat ∧ writeRegister r value s = writeRw q (value (readRw s q)) s := by
  unfold writeRegister
  by_cases h : 35 ≤ r.toNat
  · exact .inl ⟨h, by rw [ofNumber_undefined h]⟩
  by_cases h' : 16 ≤ r.toNat
  · obtain ⟨q, hq⟩ := ofNumber_ro h' (by omega)
    exact .inr (.inl ⟨h', by omega, by rw [hq]⟩)
  · obtain ⟨q, hq, hn⟩ := ofNumber_rw (r := r) (by omega)
    exact .inr (.inr ⟨q, hn, by rw [hq]⟩)

/-- WR's operand as a number. -/
theorem toNat_lowImmediate (imm16 : BitVec 16) : (lowImmediate imm16).toNat = imm16.toNat := by
  refine (BitVec.toNat_append 0#16 imm16).trans ?_
  simp

/-- WRH's operand as a number: imm16 above the register's low half. -/
theorem toNat_highImmediate (imm16 : BitVec 16) (old : Word) :
    (highImmediate imm16 old).toNat = imm16.toNat * 2 ^ 16 + old.toNat % 2 ^ 16 := by
  refine (BitVec.toNat_append imm16 _).trans ?_
  rw [← Nat.shiftLeft_add_eq_or_of_lt (BitVec.isLt _), Nat.shiftLeft_eq, BitVec.extractLsb'_toNat]
  simp

/-- What a buffer read can answer. -/
theorem readBuffer_cases (element : Option Word) (s : State) :
    (element = none ∧ readBuffer element s = raiseReadError .index s)
      ∨ ∃ v, element = some v ∧ readBuffer element s = respond v s := by
  cases element with
  | none => exact .inl ⟨rfl, rfl⟩
  | some v => exact .inr ⟨v, rfl, rfl⟩

end Sys2Proof.Machine
end

