-- ==== Sys2Proof/Laws/State.lean ====
section
/-! SUPPORT. What each named update of Machine/Ops.lean leaves in each field of State: true by rfl, for simp. -/

namespace Sys2Proof.Machine

/-! ### `raiseError` (R211) -/

@[simp] theorem raiseError_ctrl (c : ErrorCode) (s : State) : (raiseError c s).ctrl = s.ctrl := rfl
@[simp] theorem raiseError_markLen (c : ErrorCode) (s : State) : (raiseError c s).markLen = s.markLen := rfl
@[simp] theorem raiseError_spaceLen (c : ErrorCode) (s : State) : (raiseError c s).spaceLen = s.spaceLen := rfl
@[simp] theorem raiseError_tol (c : ErrorCode) (s : State) : (raiseError c s).tol = s.tol := rfl
@[simp] theorem raiseError_frameLen (c : ErrorCode) (s : State) : (raiseError c s).frameLen = s.frameLen := rfl
@[simp] theorem raiseError_minCls (c : ErrorCode) (s : State) : (raiseError c s).minCls = s.minCls := rfl
@[simp] theorem raiseError_maxComb (c : ErrorCode) (s : State) : (raiseError c s).maxComb = s.maxComb := rfl
@[simp] theorem raiseError_startLo (c : ErrorCode) (s : State) : (raiseError c s).startLo = s.startLo := rfl
@[simp] theorem raiseError_startHi (c : ErrorCode) (s : State) : (raiseError c s).startHi = s.startHi := rfl
@[simp] theorem raiseError_rgap0 (c : ErrorCode) (s : State) : (raiseError c s).rgap0 = s.rgap0 := rfl
@[simp] theorem raiseError_rgap1 (c : ErrorCode) (s : State) : (raiseError c s).rgap1 = s.rgap1 := rfl
@[simp] theorem raiseError_rtol (c : ErrorCode) (s : State) : (raiseError c s).rtol = s.rtol := rfl
@[simp] theorem raiseError_bsLo (c : ErrorCode) (s : State) : (raiseError c s).bsLo = s.bsLo := rfl
@[simp] theorem raiseError_bsHi (c : ErrorCode) (s : State) : (raiseError c s).bsHi = s.bsHi := rfl
@[simp] theorem raiseError_bsLen (c : ErrorCode) (s : State) : (raiseError c s).bsLen = s.bsLen := rfl
@[simp] theorem raiseError_lastTs (c : ErrorCode) (s : State) : (raiseError c s).lastTs = s.lastTs := rfl
@[simp] theorem raiseError_done (c : ErrorCode) (s : State) : (raiseError c s).done = s.done := rfl
@[simp] theorem raiseError_err (c : ErrorCode) (s : State) : (raiseError c s).err = true := rfl
@[simp] theorem raiseError_armed (c : ErrorCode) (s : State) : (raiseError c s).armed = s.armed := rfl
@[simp] theorem raiseError_repeatGap (c : ErrorCode) (s : State) : (raiseError c s).repeatGap = s.repeatGap := rfl
@[simp] theorem raiseError_errCode (c : ErrorCode) (s : State) : (raiseError c s).errCode = if s.errCode = 0 then c.code else s.errCode := rfl
@[simp] theorem raiseError_rres (c : ErrorCode) (s : State) : (raiseError c s).rres = s.rres := rfl
@[simp] theorem raiseError_dbuf (c : ErrorCode) (s : State) : (raiseError c s).dbuf = s.dbuf := rfl
@[simp] theorem raiseError_fb (c : ErrorCode) (s : State) : (raiseError c s).fb = s.fb := rfl
@[simp] theorem raiseError_ncls (c : ErrorCode) (s : State) : (raiseError c s).ncls = s.ncls := rfl
@[simp] theorem raiseError_nruns (c : ErrorCode) (s : State) : (raiseError c s).nruns = s.nruns := rfl
@[simp] theorem raiseError_ncomb (c : ErrorCode) (s : State) : (raiseError c s).ncomb = s.ncomb := rfl
@[simp] theorem raiseError_ntried (c : ErrorCode) (s : State) : (raiseError c s).ntried = s.ntried := rfl
@[simp] theorem raiseError_vstat (c : ErrorCode) (s : State) : (raiseError c s).vstat = s.vstat := rfl
@[simp] theorem raiseError_csum (c : ErrorCode) (s : State) : (raiseError c s).csum = s.csum := rfl
@[simp] theorem raiseError_cls (c : ErrorCode) (s : State) : (raiseError c s).cls = s.cls := rfl
@[simp] theorem raiseError_brk (c : ErrorCode) (s : State) : (raiseError c s).brk = s.brk := rfl
@[simp] theorem raiseError_rsp (c : ErrorCode) (s : State) : (raiseError c s).rsp = s.rsp := rfl
@[simp] theorem raiseError_inReset (c : ErrorCode) (s : State) : (raiseError c s).inReset = s.inReset := rfl
@[simp] theorem raiseError_inputs (c : ErrorCode) (s : State) : (raiseError c s).inputs = s.inputs := rfl
@[simp] theorem raiseError_cfg (c : ErrorCode) (s : State) : (raiseError c s).cfg = s.cfg := rfl

/-! ### `acknowledge` (R103) -/

@[simp] theorem acknowledge_ctrl (s : State) : (acknowledge s).ctrl = s.ctrl := rfl
@[simp] theorem acknowledge_markLen (s : State) : (acknowledge s).markLen = s.markLen := rfl
@[simp] theorem acknowledge_spaceLen (s : State) : (acknowledge s).spaceLen = s.spaceLen := rfl
@[simp] theorem acknowledge_tol (s : State) : (acknowledge s).tol = s.tol := rfl
@[simp] theorem acknowledge_frameLen (s : State) : (acknowledge s).frameLen = s.frameLen := rfl
@[simp] theorem acknowledge_minCls (s : State) : (acknowledge s).minCls = s.minCls := rfl
@[simp] theorem acknowledge_maxComb (s : State) : (acknowledge s).maxComb = s.maxComb := rfl
@[simp] theorem acknowledge_startLo (s : State) : (acknowledge s).startLo = s.startLo := rfl
@[simp] theorem acknowledge_startHi (s : State) : (acknowledge s).startHi = s.startHi := rfl
@[simp] theorem acknowledge_rgap0 (s : State) : (acknowledge s).rgap0 = s.rgap0 := rfl
@[simp] theorem acknowledge_rgap1 (s : State) : (acknowledge s).rgap1 = s.rgap1 := rfl
@[simp] theorem acknowledge_rtol (s : State) : (acknowledge s).rtol = s.rtol := rfl
@[simp] theorem acknowledge_bsLo (s : State) : (acknowledge s).bsLo = s.bsLo := rfl
@[simp] theorem acknowledge_bsHi (s : State) : (acknowledge s).bsHi = s.bsHi := rfl
@[simp] theorem acknowledge_bsLen (s : State) : (acknowledge s).bsLen = s.bsLen := rfl
@[simp] theorem acknowledge_lastTs (s : State) : (acknowledge s).lastTs = s.lastTs := rfl
@[simp] theorem acknowledge_done (s : State) : (acknowledge s).done = false := rfl
@[simp] theorem acknowledge_err (s : State) : (acknowledge s).err = false := rfl
@[simp] theorem acknowledge_armed (s : State) : (acknowledge s).armed = s.armed := rfl
@[simp] theorem acknowledge_repeatGap (s : State) : (acknowledge s).repeatGap = s.repeatGap := rfl
@[simp] theorem acknowledge_errCode (s : State) : (acknowledge s).errCode = 0 := rfl
@[simp] theorem acknowledge_rres (s : State) : (acknowledge s).rres = s.rres := rfl
@[simp] theorem acknowledge_dbuf (s : State) : (acknowledge s).dbuf = s.dbuf := rfl
@[simp] theorem acknowledge_fb (s : State) : (acknowledge s).fb = s.fb := rfl
@[simp] theorem acknowledge_ncls (s : State) : (acknowledge s).ncls = s.ncls := rfl
@[simp] theorem acknowledge_nruns (s : State) : (acknowledge s).nruns = s.nruns := rfl
@[simp] theorem acknowledge_ncomb (s : State) : (acknowledge s).ncomb = s.ncomb := rfl
@[simp] theorem acknowledge_ntried (s : State) : (acknowledge s).ntried = s.ntried := rfl
@[simp] theorem acknowledge_vstat (s : State) : (acknowledge s).vstat = s.vstat := rfl
@[simp] theorem acknowledge_csum (s : State) : (acknowledge s).csum = s.csum := rfl
@[simp] theorem acknowledge_cls (s : State) : (acknowledge s).cls = s.cls := rfl
@[simp] theorem acknowledge_brk (s : State) : (acknowledge s).brk = s.brk := rfl
@[simp] theorem acknowledge_rsp (s : State) : (acknowledge s).rsp = s.rsp := rfl
@[simp] theorem acknowledge_inReset (s : State) : (acknowledge s).inReset = s.inReset := rfl
@[simp] theorem acknowledge_inputs (s : State) : (acknowledge s).inputs = s.inputs := rfl
@[simp] theorem acknowledge_cfg (s : State) : (acknowledge s).cfg = s.cfg := rfl

/-! ### `respond` (R82) -/

@[simp] theorem respond_ctrl (v : Word) (s : State) : (respond v s).ctrl = s.ctrl := rfl
@[simp] theorem respond_markLen (v : Word) (s : State) : (respond v s).markLen = s.markLen := rfl
@[simp] theorem respond_spaceLen (v : Word) (s : State) : (respond v s).spaceLen = s.spaceLen := rfl
@[simp] theorem respond_tol (v : Word) (s : State) : (respond v s).tol = s.tol := rfl
@[simp] theorem respond_frameLen (v : Word) (s : State) : (respond v s).frameLen = s.frameLen := rfl
@[simp] theorem respond_minCls (v : Word) (s : State) : (respond v s).minCls = s.minCls := rfl
@[simp] theorem respond_maxComb (v : Word) (s : State) : (respond v s).maxComb = s.maxComb := rfl
@[simp] theorem respond_startLo (v : Word) (s : State) : (respond v s).startLo = s.startLo := rfl
@[simp] theorem respond_startHi (v : Word) (s : State) : (respond v s).startHi = s.startHi := rfl
@[simp] theorem respond_rgap0 (v : Word) (s : State) : (respond v s).rgap0 = s.rgap0 := rfl
@[simp] theorem respond_rgap1 (v : Word) (s : State) : (respond v s).rgap1 = s.rgap1 := rfl
@[simp] theorem respond_rtol (v : Word) (s : State) : (respond v s).rtol = s.rtol := rfl
@[simp] theorem respond_bsLo (v : Word) (s : State) : (respond v s).bsLo = s.bsLo := rfl
@[simp] theorem respond_bsHi (v : Word) (s : State) : (respond v s).bsHi = s.bsHi := rfl
@[simp] theorem respond_bsLen (v : Word) (s : State) : (respond v s).bsLen = s.bsLen := rfl
@[simp] theorem respond_lastTs (v : Word) (s : State) : (respond v s).lastTs = s.lastTs := rfl
@[simp] theorem respond_done (v : Word) (s : State) : (respond v s).done = s.done := rfl
@[simp] theorem respond_err (v : Word) (s : State) : (respond v s).err = s.err := rfl
@[simp] theorem respond_armed (v : Word) (s : State) : (respond v s).armed = s.armed := rfl
@[simp] theorem respond_repeatGap (v : Word) (s : State) : (respond v s).repeatGap = s.repeatGap := rfl
@[simp] theorem respond_errCode (v : Word) (s : State) : (respond v s).errCode = s.errCode := rfl
@[simp] theorem respond_rres (v : Word) (s : State) : (respond v s).rres = s.rres := rfl
@[simp] theorem respond_dbuf (v : Word) (s : State) : (respond v s).dbuf = s.dbuf := rfl
@[simp] theorem respond_fb (v : Word) (s : State) : (respond v s).fb = s.fb := rfl
@[simp] theorem respond_ncls (v : Word) (s : State) : (respond v s).ncls = s.ncls := rfl
@[simp] theorem respond_nruns (v : Word) (s : State) : (respond v s).nruns = s.nruns := rfl
@[simp] theorem respond_ncomb (v : Word) (s : State) : (respond v s).ncomb = s.ncomb := rfl
@[simp] theorem respond_ntried (v : Word) (s : State) : (respond v s).ntried = s.ntried := rfl
@[simp] theorem respond_vstat (v : Word) (s : State) : (respond v s).vstat = s.vstat := rfl
@[simp] theorem respond_csum (v : Word) (s : State) : (respond v s).csum = s.csum := rfl
@[simp] theorem respond_cls (v : Word) (s : State) : (respond v s).cls = s.cls := rfl
@[simp] theorem respond_brk (v : Word) (s : State) : (respond v s).brk = s.brk := rfl
@[simp] theorem respond_rsp (v : Word) (s : State) : (respond v s).rsp = some v := rfl
@[simp] theorem respond_inReset (v : Word) (s : State) : (respond v s).inReset = s.inReset := rfl
@[simp] theorem respond_inputs (v : Word) (s : State) : (respond v s).inputs = s.inputs := rfl
@[simp] theorem respond_cfg (v : Word) (s : State) : (respond v s).cfg = s.cfg := rfl

/-! ### `complete` (R36) -/

@[simp] theorem complete_ctrl (s : State) : (complete s).ctrl = s.ctrl := rfl
@[simp] theorem complete_markLen (s : State) : (complete s).markLen = s.markLen := rfl
@[simp] theorem complete_spaceLen (s : State) : (complete s).spaceLen = s.spaceLen := rfl
@[simp] theorem complete_tol (s : State) : (complete s).tol = s.tol := rfl
@[simp] theorem complete_frameLen (s : State) : (complete s).frameLen = s.frameLen := rfl
@[simp] theorem complete_minCls (s : State) : (complete s).minCls = s.minCls := rfl
@[simp] theorem complete_maxComb (s : State) : (complete s).maxComb = s.maxComb := rfl
@[simp] theorem complete_startLo (s : State) : (complete s).startLo = s.startLo := rfl
@[simp] theorem complete_startHi (s : State) : (complete s).startHi = s.startHi := rfl
@[simp] theorem complete_rgap0 (s : State) : (complete s).rgap0 = s.rgap0 := rfl
@[simp] theorem complete_rgap1 (s : State) : (complete s).rgap1 = s.rgap1 := rfl
@[simp] theorem complete_rtol (s : State) : (complete s).rtol = s.rtol := rfl
@[simp] theorem complete_bsLo (s : State) : (complete s).bsLo = s.bsLo := rfl
@[simp] theorem complete_bsHi (s : State) : (complete s).bsHi = s.bsHi := rfl
@[simp] theorem complete_bsLen (s : State) : (complete s).bsLen = s.bsLen := rfl
@[simp] theorem complete_lastTs (s : State) : (complete s).lastTs = s.lastTs := rfl
@[simp] theorem complete_done (s : State) : (complete s).done = true := rfl
@[simp] theorem complete_err (s : State) : (complete s).err = s.err := rfl
@[simp] theorem complete_armed (s : State) : (complete s).armed = s.armed := rfl
@[simp] theorem complete_repeatGap (s : State) : (complete s).repeatGap = s.repeatGap := rfl
@[simp] theorem complete_errCode (s : State) : (complete s).errCode = s.errCode := rfl
@[simp] theorem complete_rres (s : State) : (complete s).rres = s.rres := rfl
@[simp] theorem complete_dbuf (s : State) : (complete s).dbuf = s.dbuf := rfl
@[simp] theorem complete_fb (s : State) : (complete s).fb = s.fb := rfl
@[simp] theorem complete_ncls (s : State) : (complete s).ncls = s.ncls := rfl
@[simp] theorem complete_nruns (s : State) : (complete s).nruns = s.nruns := rfl
@[simp] theorem complete_ncomb (s : State) : (complete s).ncomb = s.ncomb := rfl
@[simp] theorem complete_ntried (s : State) : (complete s).ntried = s.ntried := rfl
@[simp] theorem complete_vstat (s : State) : (complete s).vstat = s.vstat := rfl
@[simp] theorem complete_csum (s : State) : (complete s).csum = s.csum := rfl
@[simp] theorem complete_cls (s : State) : (complete s).cls = s.cls := rfl
@[simp] theorem complete_brk (s : State) : (complete s).brk = s.brk := rfl
@[simp] theorem complete_rsp (s : State) : (complete s).rsp = s.rsp := rfl
@[simp] theorem complete_inReset (s : State) : (complete s).inReset = s.inReset := rfl
@[simp] theorem complete_inputs (s : State) : (complete s).inputs = s.inputs := rfl
@[simp] theorem complete_cfg (s : State) : (complete s).cfg = s.cfg := rfl

/-! ### `appendDuration` (R9) -/

@[simp] theorem appendDuration_ctrl (d : Ticks) (s : State) : (appendDuration d s).ctrl = s.ctrl := rfl
@[simp] theorem appendDuration_markLen (d : Ticks) (s : State) : (appendDuration d s).markLen = s.markLen := rfl
@[simp] theorem appendDuration_spaceLen (d : Ticks) (s : State) : (appendDuration d s).spaceLen = s.spaceLen := rfl
@[simp] theorem appendDuration_tol (d : Ticks) (s : State) : (appendDuration d s).tol = s.tol := rfl
@[simp] theorem appendDuration_frameLen (d : Ticks) (s : State) : (appendDuration d s).frameLen = s.frameLen := rfl
@[simp] theorem appendDuration_minCls (d : Ticks) (s : State) : (appendDuration d s).minCls = s.minCls := rfl
@[simp] theorem appendDuration_maxComb (d : Ticks) (s : State) : (appendDuration d s).maxComb = s.maxComb := rfl
@[simp] theorem appendDuration_startLo (d : Ticks) (s : State) : (appendDuration d s).startLo = s.startLo := rfl
@[simp] theorem appendDuration_startHi (d : Ticks) (s : State) : (appendDuration d s).startHi = s.startHi := rfl
@[simp] theorem appendDuration_rgap0 (d : Ticks) (s : State) : (appendDuration d s).rgap0 = s.rgap0 := rfl
@[simp] theorem appendDuration_rgap1 (d : Ticks) (s : State) : (appendDuration d s).rgap1 = s.rgap1 := rfl
@[simp] theorem appendDuration_rtol (d : Ticks) (s : State) : (appendDuration d s).rtol = s.rtol := rfl
@[simp] theorem appendDuration_bsLo (d : Ticks) (s : State) : (appendDuration d s).bsLo = s.bsLo := rfl
@[simp] theorem appendDuration_bsHi (d : Ticks) (s : State) : (appendDuration d s).bsHi = s.bsHi := rfl
@[simp] theorem appendDuration_bsLen (d : Ticks) (s : State) : (appendDuration d s).bsLen = s.bsLen := rfl
@[simp] theorem appendDuration_lastTs (d : Ticks) (s : State) : (appendDuration d s).lastTs = s.lastTs := rfl
@[simp] theorem appendDuration_done (d : Ticks) (s : State) : (appendDuration d s).done = s.done := rfl
@[simp] theorem appendDuration_err (d : Ticks) (s : State) : (appendDuration d s).err = s.err := rfl
@[simp] theorem appendDuration_armed (d : Ticks) (s : State) : (appendDuration d s).armed = s.armed := rfl
@[simp] theorem appendDuration_repeatGap (d : Ticks) (s : State) : (appendDuration d s).repeatGap = s.repeatGap := rfl
@[simp] theorem appendDuration_errCode (d : Ticks) (s : State) : (appendDuration d s).errCode = s.errCode := rfl
@[simp] theorem appendDuration_rres (d : Ticks) (s : State) : (appendDuration d s).rres = s.rres := rfl
@[simp] theorem appendDuration_dbuf (d : Ticks) (s : State) : (appendDuration d s).dbuf = s.dbuf ++ [d] := rfl
@[simp] theorem appendDuration_fb (d : Ticks) (s : State) : (appendDuration d s).fb = s.fb := rfl
@[simp] theorem appendDuration_ncls (d : Ticks) (s : State) : (appendDuration d s).ncls = s.ncls := rfl
@[simp] theorem appendDuration_nruns (d : Ticks) (s : State) : (appendDuration d s).nruns = s.nruns := rfl
@[simp] theorem appendDuration_ncomb (d : Ticks) (s : State) : (appendDuration d s).ncomb = s.ncomb := rfl
@[simp] theorem appendDuration_ntried (d : Ticks) (s : State) : (appendDuration d s).ntried = s.ntried := rfl
@[simp] theorem appendDuration_vstat (d : Ticks) (s : State) : (appendDuration d s).vstat = s.vstat := rfl
@[simp] theorem appendDuration_csum (d : Ticks) (s : State) : (appendDuration d s).csum = s.csum := rfl
@[simp] theorem appendDuration_cls (d : Ticks) (s : State) : (appendDuration d s).cls = s.cls := rfl
@[simp] theorem appendDuration_brk (d : Ticks) (s : State) : (appendDuration d s).brk = s.brk := rfl
@[simp] theorem appendDuration_rsp (d : Ticks) (s : State) : (appendDuration d s).rsp = s.rsp := rfl
@[simp] theorem appendDuration_inReset (d : Ticks) (s : State) : (appendDuration d s).inReset = s.inReset := rfl
@[simp] theorem appendDuration_inputs (d : Ticks) (s : State) : (appendDuration d s).inputs = s.inputs := rfl
@[simp] theorem appendDuration_cfg (d : Ticks) (s : State) : (appendDuration d s).cfg = s.cfg := rfl

/-! ### `resetBlock` (R231): what it keeps; the other fields are those of `State.reset` -/

@[simp] theorem resetBlock_ctrl (s : State) : (resetBlock s).ctrl = State.reset.ctrl := rfl
@[simp] theorem resetBlock_markLen (s : State) : (resetBlock s).markLen = State.reset.markLen := rfl
@[simp] theorem resetBlock_spaceLen (s : State) : (resetBlock s).spaceLen = State.reset.spaceLen := rfl
@[simp] theorem resetBlock_tol (s : State) : (resetBlock s).tol = State.reset.tol := rfl
@[simp] theorem resetBlock_frameLen (s : State) : (resetBlock s).frameLen = State.reset.frameLen := rfl
@[simp] theorem resetBlock_minCls (s : State) : (resetBlock s).minCls = State.reset.minCls := rfl
@[simp] theorem resetBlock_maxComb (s : State) : (resetBlock s).maxComb = State.reset.maxComb := rfl
@[simp] theorem resetBlock_startLo (s : State) : (resetBlock s).startLo = State.reset.startLo := rfl
@[simp] theorem resetBlock_startHi (s : State) : (resetBlock s).startHi = State.reset.startHi := rfl
@[simp] theorem resetBlock_rgap0 (s : State) : (resetBlock s).rgap0 = State.reset.rgap0 := rfl
@[simp] theorem resetBlock_rgap1 (s : State) : (resetBlock s).rgap1 = State.reset.rgap1 := rfl
@[simp] theorem resetBlock_rtol (s : State) : (resetBlock s).rtol = State.reset.rtol := rfl
@[simp] theorem resetBlock_bsLo (s : State) : (resetBlock s).bsLo = State.reset.bsLo := rfl
@[simp] theorem resetBlock_bsHi (s : State) : (resetBlock s).bsHi = State.reset.bsHi := rfl
@[simp] theorem resetBlock_bsLen (s : State) : (resetBlock s).bsLen = State.reset.bsLen := rfl
@[simp] theorem resetBlock_lastTs (s : State) : (resetBlock s).lastTs = State.reset.lastTs := rfl
@[simp] theorem resetBlock_done (s : State) : (resetBlock s).done = State.reset.done := rfl
@[simp] theorem resetBlock_err (s : State) : (resetBlock s).err = State.reset.err := rfl
@[simp] theorem resetBlock_armed (s : State) : (resetBlock s).armed = State.reset.armed := rfl
@[simp] theorem resetBlock_repeatGap (s : State) : (resetBlock s).repeatGap = State.reset.repeatGap := rfl
@[simp] theorem resetBlock_errCode (s : State) : (resetBlock s).errCode = State.reset.errCode := rfl
@[simp] theorem resetBlock_rres (s : State) : (resetBlock s).rres = State.reset.rres := rfl
@[simp] theorem resetBlock_dbuf (s : State) : (resetBlock s).dbuf = State.reset.dbuf := rfl
@[simp] theorem resetBlock_fb (s : State) : (resetBlock s).fb = State.reset.fb := rfl
@[simp] theorem resetBlock_ncls (s : State) : (resetBlock s).ncls = State.reset.ncls := rfl
@[simp] theorem resetBlock_nruns (s : State) : (resetBlock s).nruns = State.reset.nruns := rfl
@[simp] theorem resetBlock_ncomb (s : State) : (resetBlock s).ncomb = State.reset.ncomb := rfl
@[simp] theorem resetBlock_ntried (s : State) : (resetBlock s).ntried = State.reset.ntried := rfl
@[simp] theorem resetBlock_vstat (s : State) : (resetBlock s).vstat = State.reset.vstat := rfl
@[simp] theorem resetBlock_csum (s : State) : (resetBlock s).csum = State.reset.csum := rfl
@[simp] theorem resetBlock_cls (s : State) : (resetBlock s).cls = State.reset.cls := rfl
@[simp] theorem resetBlock_brk (s : State) : (resetBlock s).brk = State.reset.brk := rfl
@[simp] theorem resetBlock_rsp (s : State) : (resetBlock s).rsp = State.reset.rsp := rfl
@[simp] theorem resetBlock_inReset (s : State) : (resetBlock s).inReset = State.reset.inReset := rfl
@[simp] theorem resetBlock_inputs (s : State) : (resetBlock s).inputs = s.inputs := rfl
@[simp] theorem resetBlock_cfg (s : State) : (resetBlock s).cfg = s.cfg := rfl

end Sys2Proof.Machine
end

