-- ==== Sys2Proof/Tests/Slice0.lean ====
section
/-! SUPPORT. The model's own tests. Expected values are those of spec/95_test_vectors.md (its vector named in the comment)
or of the rule named; decoding words are written out from R84 and R86. The witnesses at the end meet the hypotheses of the
statements, clause by clause. -/

open Sys2Proof Sys2Proof.Machine Sys2Proof.Claims

namespace Sys2Proof.Tests

/-! ### WellFormed: each check of R90 refuses a line -/

theorem test_refuses_register_above_63 : (SourceLine.mk .wr [64, 0]).wellFormed = false := by decide
theorem test_refuses_immediate_above_field : (SourceLine.mk .wrh [1, 0x10000]).wellFormed = false := by decide
theorem test_refuses_query_register_above_63 : (SourceLine.mk .rd [64]).wellFormed = false := by decide
theorem test_refuses_index_above_127 : (SourceLine.mk .rdd [128]).wellFormed = false := by decide
theorem test_refuses_value_above_field : (SourceLine.mk .pushd [0x1000000]).wellFormed = false := by decide
theorem test_refuses_operand_of_format_n : (SourceLine.mk .recon [0]).wellFormed = false := by decide
theorem test_refuses_missing_operand : (SourceLine.mk .rdf []).wellFormed = false := by decide
theorem test_accepts_largest_operands :
    (SourceLine.mk .wr [63, 0xFFFF]).wellFormed ∧ (SourceLine.mk .rdf [127]).wellFormed
      ∧ (SourceLine.mk .sett [0xFFFFFF]).wellFormed := by decide

/-! ### Decoding: one word of every command, written out as opcode, then operand field (R84, R86) -/

theorem test_decode_nop : decode 0b00000000_000000000000000000000000 = .ok .nop := by decide
theorem test_decode_rst : decode 0b00000001_000000000000000000000000 = .ok .rst := by decide
theorem test_decode_clrd : decode 0b00000010_000000000000000000000000 = .ok .clrd := by decide
theorem test_decode_clrst : decode 0b00000011_000000000000000000000000 = .ok .clrst := by decide
theorem test_decode_wr : decode 0b00001000_00_100001_1000000000000101 = .ok (.wr 33 0x8005) := by decide
theorem test_decode_wrh : decode 0b00001001_00_001010_0000000000000001 = .ok (.wrh 10 1) := by decide
theorem test_decode_rd : decode 0b00001010_00_011101_0000000000000000 = .ok (.rd 29) := by decide
theorem test_decode_rdd : decode 0b00001011_00000000000000000_1000011 = .ok (.rdd 67) := by decide
theorem test_decode_rdf : decode 0b00001100_00000000000000000_0000100 = .ok (.rdf 4) := by decide
theorem test_decode_pushd : decode 0b00010000_100000000000010001100101 = .ok (.pushd 0x800465) := by decide
theorem test_decode_pusht : decode 0b00010001_000000000000001101100101 = .ok (.pusht 0x365) := by decide
theorem test_decode_sett : decode 0b00010010_111111111111111100000000 = .ok (.sett 0xFFFF00) := by decide
theorem test_decode_wincmp : decode 0b00100000_000000000011010010111100 = .ok (.wincmp 13500) := by decide
theorem test_decode_class : decode 0b00100001_000000000000101011111100 = .ok (.classify 2812) := by decide
theorem test_decode_recon : decode 0b00110000_000000000000000000000000 = .ok .recon := by decide
theorem test_decode_val : decode 0b00110001_000000000000000000000000 = .ok .val := by decide
theorem test_decode_enc : decode 0b00110010_000000000000000000000000 = .ok .enc := by decide
theorem test_decode_illegal : decode 0x04000000 = .error .illegalOpcode ∧ decode 0xFF000000 = .error .illegalOpcode := by decide
/-- Vectors CT2, RA10, RA9 and RA11. -/
theorem test_decode_reserved :
    decode 0x00000001 = .error (.reservedBits .nop) ∧ decode 0x08FF0000 = .error (.reservedBits .wr)
      ∧ decode 0x0A100001 = .error (.reservedBits .rd) ∧ decode 0x0B000080 = .error (.reservedBits .rdd) := by decide
theorem test_decode_table_word : decodeTableWord 32 0x0A1D0000 = some (.rd 29) ∧ decodeTableWord 32 0x04000000 = none := by decide

/-! ### The assembler: the examples of R90 and the expansions of R91 -/

theorem test_assemble_wr : assembleLine "WR MARK_LEN, 2250".toList = some [.wr 1 2250] := by decide
theorem test_assemble_rd : assembleLine "RD r29 ; the hex view".toList = some [.rd 29] := by decide
theorem test_assemble_unknown_register : assembleLine "RD NEC_HEXX".toList = none := by decide
/-- The model's choice of log 14. -/
theorem test_assemble_register_digits : assembleLine "RD r007".toList = some [.rd 7] ∧ assembleLine "RD r0x7".toList = none := by decide
theorem test_assemble_li : assembleLine "LI RGAP1, 96000".toList = some [.wr 10 0x7700, .wrh 10 1] := by decide
theorem test_assemble_ldbs :
    assembleLine "LDBS 0x028A00EB77, 40".toList = some [.wr 12 0xEB77, .wrh 12 0x8A00, .wr 13 2, .wr 14 40] := by decide

/-! ### One step of each command -/

/-- A field of the next state. -/
def after {α : Type} (r : Result) (field : State → α) : Option α :=
  match r with
  | .next t => some (field t)
  | .fault _ => none
  | .refused _ => none

/-- The configuration NEC of spec/95_test_vectors.md, with a duration buffer. -/
def necState (ds : List Ticks) : State :=
  { State.reset with ctrl := 5, markLen := 2250, spaceLen := 1125, tol := 562, frameLen := 32, dbuf := ds }

/-- The bit string configuration DHT of spec/95_test_vectors.md, BS holding a 40-bit value. -/
def dhtState (hi : BitVec 8) (lo : Word) : State :=
  { State.reset with ctrl := 2, markLen := 120, spaceLen := 78, tol := 21, frameLen := 40, bsHi := hi, bsLo := lo, bsLen := 40 }

/-- Vectors WN1 to WN14's detector. -/
def detectorState (brk : Ticks) : State :=
  { State.reset with ctrl := 1, startLo := 9000, startHi := 13500, rgap0 := 40000, rgap1 := 96000, rtol := 2000, brk := brk }

/-- CT1. -/
theorem test_nop : after (exec .nop (necState [5])) id = some (necState [5]) := by decide
/-- CT3. -/
theorem test_rst : after (exec .rst (necState [5])) id = some State.reset := by decide
/-- CT4: a faulty RST resets nothing. -/
theorem test_rst_reserved : after (acceptWord 0x01000001 (necState [])) (fun t => (t.markLen, t.errCode, t.err)) = some (2250, 2, true) := by decide
/-- CT5. -/
theorem test_clrd : after (exec .clrd (necState [1, 2])) (fun t => (t.dbuf, t.markLen)) = some ([], 2250) := by decide
/-- CT6. -/
theorem test_clrst : after (exec .clrst { State.reset with errCode := 2, err := true, done := true }) (fun t => (t.errCode, t.err, t.done)) = some (0, false, false) := by decide
/-- CT7. -/
theorem test_clrst_reserved : after (acceptWord 0x03000005 { State.reset with errCode := 1, err := true }) (fun t => (t.errCode, t.err)) = some (1, true) := by decide
/-- RA1. -/
theorem test_wr_masks : after (exec (.wr 4 72) State.reset) State.frameLen = some 8 := by decide
/-- RA6. -/
theorem test_wr_read_only : after (exec (.wr 16 0) State.reset) (fun t => (t.errCode, t.err)) = some (4, true) := by decide
/-- RA4. -/
theorem test_wrh_keeps_low_half : after (exec (.wrh 1 0xABCD) { State.reset with markLen := 0x1234 }) State.markLen = some 0xCD1234 := by decide
/-- RA3. -/
theorem test_wrh_above_field : after (exec (.wrh 0 0xFFFF) { State.reset with ctrl := 0x1F }) State.ctrl = some 0x1F := by decide
/-- R36: DONE, CFGOK and FRAMEOK set, and IRQ through IE_DONE. -/
theorem test_rd_status : after (exec (.rd 16) { necState [] with ctrl := 0x0D, done := true }) State.rsp = some (some 0x71) := by decide
/-- RA8. -/
theorem test_rd_bad_register : after (exec (.rd 63) State.reset) (fun t => (t.rsp, t.errCode)) = some (some 0, 3) := by decide
/-- RA14. -/
theorem test_rdd : after (exec (.rdd 0) (necState [1125])) State.rsp = some (some 1125) := by decide
/-- RA12. -/
theorem test_rdd_out_of_range : after (exec (.rdd 0) State.reset) (fun t => (t.rsp, t.errCode)) = some (some 0, 6) := by decide
/-- R114's example: a separator reads 2. -/
theorem test_rdf : after (exec (.rdf 1) { State.reset with fb := [.space, .ambiguous] }) State.rsp = some (some 2) := by decide
/-- RA13. -/
theorem test_rdf_out_of_range : after (exec (.rdf 0) State.reset) (fun t => (t.rsp, t.errCode)) = some (some 0, 6) := by decide
/-- IN1. -/
theorem test_pushd : after (exec (.pushd 1125) (necState [7])) State.dbuf = some [7, 1125] := by decide
/-- IN3. -/
theorem test_pushd_full : after (exec (.pushd 5) (necState (List.replicate 64 0))) (fun t => (t.dbuf.length, t.errCode)) = some (64, 5) := by decide
/-- IN8: the timestamp counter rolled over. -/
theorem test_pusht_wraps : after (exec (.pusht 0x365) { State.reset with lastTs := 0xFFFF00 }) (fun t => (t.dbuf, t.lastTs)) = some ([1125], 0x365) := by decide
/-- IN4. -/
theorem test_pusht_full : after (exec (.pusht 5) (necState (List.replicate 64 0))) (fun t => (t.lastTs, t.errCode)) = some (0, 5) := by decide
/-- IN10. -/
theorem test_sett : after (exec (.sett 0xFFFFFF) (necState [3])) (fun t => (t.lastTs, t.dbuf)) = some (0xFFFFFF, [3]) := by decide
/-- WN6. -/
theorem test_wincmp_repeat : after (exec (.wincmp 9000) (detectorState 38000)) (fun t => (t.armed, t.repeatGap)) = some (true, true) := by decide
/-- WN4. -/
theorem test_wincmp_outside : after (exec (.wincmp 13501) (detectorState 38000)) (fun t => (t.armed, t.brk)) = some (false, 13501) := by decide
/-- CL12: the shared midpoint is a Mark. -/
theorem test_class_midpoint : after (exec (.classify 1687) { necState [] with spaceLen := 1124, tol := 563 }) State.cls = some 1 := by decide
/-- CL3. -/
theorem test_class_ambiguous : after (exec (.classify 2813) (necState [])) State.cls = some 2 := by decide
/-- RN12, of one run: 5000 has no string of the right length, and one symbol is classified. -/
theorem test_recon_few : after (exec .recon (necState [5000, 600])) (fun t => (t.rres, t.fb, t.ncls, t.ntried)) = some (3, [.ambiguous, .space], 1, 4) := by decide
/-- RN3's candidate set in mode NONE, FRAME_LEN 4: only the last of [01, 10, 000] gives four bits. -/
theorem test_recon_last_candidate :
    after (exec .recon { necState [2250, 3375] with ctrl := 4, frameLen := 4 }) (fun t => (t.rres, t.bsLo, t.bsLen, t.ntried)) = some (1, 0b1000, 4, 3) := by decide
/-- R185's example (§8 item 8). -/
theorem test_val_dht : after (exec .val (dhtState 0x02 0x8A00EB77)) (fun t => (t.vstat, t.csum, t.done)) = some (0x700, 0x7777, true) := by decide
/-- RN8's string: MM0 is 7, so the NEC check fails. -/
theorem test_val_nec : after (exec .val { necState [] with bsLo := 0x8CF3E11E, bsLen := 32 }) (fun t => (t.vstat, t.csum)) = some (0x187, 0) := by decide
/-- R197's example. -/
theorem test_enc : after (exec .enc { necState [] with bsLo := 0xC, bsLen := 4 }) State.dbuf = some [2250, 2250, 1125, 1125] := by decide
/-- R213: CFGOK before BS_LEN. -/
theorem test_enc_order : after (exec .enc { State.reset with bsLen := 41 }) State.errCode = some 7 ∧ after (exec .enc { necState [] with bsLen := 41 }) State.errCode = some 8 := by decide
/-- R199's two bytes, and R203's negative zero. -/
theorem test_views :
    ({ necState [] with bsLo := 0x0CF3E11E, bsLen := 32 } : State).necHex = 0x0C1E
      ∧ ({ necState [] with ctrl := 1, bsLo := 0x0CF3E11E, bsLen := 32 } : State).necHex = 0x0CE1
      ∧ (dhtState 0x02 0x8A8065F2).dhtTemp = 0xFFFFFF9B ∧ (dhtState 0x02 0x8A800000).dhtTemp = 0 := by decide
/-- What the host places is the very next command. -/
theorem test_withFetchWord : after (step (State.reset.withFetchWord 32 0x10000465)) (fun t => (t.dbuf, t.inputs)) = some ([1125], []) := by decide

/-! ### Witnesses: states and operands that meet the hypotheses of each statement, one theorem a statement -/

/-- A state whose next port edge is `e`. -/
def withEdge (e : PortEdge) (s : State) : State := { s with inputs := [e] }

theorem witness_EncodeOfDecode : decode 0x080108CA = .ok (.wr 1 2250) := by decide
/-- A line at the bounds assembles to itself, and one above each bound is refused. -/
theorem witness_WellFormedLinesAssemble :
    (SourceLine.mk .wr [63, 0xFFFF]).wellFormed = true ∧ (SourceLine.mk .wr [63, 0xFFFF]).assemble = some (.wr 63 0xFFFF)
      ∧ (SourceLine.mk .wr [64, 0]).assemble = none ∧ (SourceLine.mk .wrh [0, 0x10000]).assemble = none
      ∧ (SourceLine.mk .rdd [128]).assemble = none ∧ (SourceLine.mk .pushd [0x1000000]).assemble = none
      ∧ (SourceLine.mk .recon [0]).assemble = none := by decide
theorem witness_StepRunsDecodedCommand :
    (withEdge (commandEdge 0x080108CA) State.reset).inputs = commandEdge 0x080108CA :: [] ∧ (commandEdge 0x080108CA).rstN = true
      ∧ (commandEdge 0x080108CA).cmd = some 0x080108CA ∧ (withEdge (commandEdge 0x080108CA) State.reset).inReset = false
      ∧ (withEdge (commandEdge 0x080108CA) State.reset).rsp = none ∧ decode 0x080108CA = .ok (.wr 1 2250) := by decide
/-- The three kinds of word; the port's hypotheses are those of `witness_StepRunsDecodedCommand`. -/
theorem witness_EveryWordIsAnswered :
    (∀ row ∈ opcodeRows, opOf 0x04000000 ≠ row.opcode)
      ∧ (∃ row ∈ opcodeRows, opOf 0x08400000 = row.opcode ∧ (0x08400000 : Word).toNat &&& row.reserved ≠ 0)
      ∧ ∃ row ∈ opcodeRows, opOf 0x083FFFFF = row.opcode ∧ (0x083FFFFF : Word).toNat &&& row.reserved = 0 := by
  refine ⟨by decide, ⟨⟨.wr, 0x08, 0xC00000⟩, by simp [opcodeRows], by decide⟩, ⟨⟨.wr, 0x08, 0xC00000⟩, by simp [opcodeRows], by decide⟩⟩
/-- A word of each command with one reserved bit set, the lowest or the highest of its format, for the encoding clauses of
the command statements. -/
theorem witness_ReservedRaises :
    ∀ c ∈ ([(0x00000001, 0x00, 0xFFFFFF), (0x01800000, 0x01, 0xFFFFFF), (0x02000001, 0x02, 0xFFFFFF), (0x03800000, 0x03, 0xFFFFFF),
        (0x08400000, 0x08, 0xC00000), (0x09800000, 0x09, 0xC00000), (0x0A008000, 0x0A, 0xC0FFFF), (0x0B000080, 0x0B, 0xFFFF80),
        (0x0C800000, 0x0C, 0xFFFF80), (0x30000001, 0x30, 0xFFFFFF), (0x31800000, 0x31, 0xFFFFFF), (0x32000001, 0x32, 0xFFFFFF)]
        : List (Word × Nat × Nat)), opOf c.1 = c.2.1 ∧ c.1.toNat &&& c.2.2 ≠ 0 := by decide
theorem witness_ResetEdgeResetsBlock :
    ((withEdge ⟨false, some 0, true⟩ (necState [5])).inputs = [⟨false, some 0, true⟩])
      ∧ (withEdge (commandEdge 0) { State.reset with inReset := true }).inputs = [commandEdge 0] ∧ (commandEdge 0).rstN = true
      ∧ (withEdge (commandEdge 0) { State.reset with inReset := true }).inReset = true := by decide
theorem witness_WaitingResponseHoldsCommandsOff :
    (withEdge ⟨true, some 0, true⟩ { State.reset with rsp := some 7 }).inputs = [⟨true, some 0, true⟩]
      ∧ (withEdge ⟨true, some 0, true⟩ { State.reset with rsp := some 7 }).inReset = false
      ∧ (withEdge ⟨true, some 0, true⟩ { State.reset with rsp := some 7 }).rsp = some 7 := by decide
theorem witness_IdleEdgesHoldState :
    State.reset.inputs = [] ∧ (withEdge ⟨true, none, true⟩ State.reset).inputs = [⟨true, none, true⟩]
      ∧ (withEdge ⟨true, none, true⟩ State.reset).inReset = false ∧ (withEdge ⟨true, none, true⟩ State.reset).rsp = none := by decide
theorem witness_WrStoresLowHalf :
    (15 : BitVec 6).toNat ≤ 15 ∧ (16 ≤ (16 : BitVec 6).toNat ∧ (16 : BitVec 6).toNat ≤ 34) ∧ 35 ≤ (35 : BitVec 6).toNat := by decide
theorem witness_WrhStoresHighHalf :
    (0 : BitVec 6).toNat ≤ 15 ∧ (16 ≤ (34 : BitVec 6).toNat ∧ (34 : BitVec 6).toNat ≤ 34) ∧ 35 ≤ (63 : BitVec 6).toNat := by decide
theorem witness_LoadPseudosLoad : (15 ≤ 15 ∧ 2 ^ 32 - 1 < 2 ^ 32) ∧ 2 ^ 40 - 1 < 2 ^ 40 ∧ 63 ≤ 63 := by decide
theorem witness_RdRespondsWithRegister :
    (necState [5]).BuffersLegal ∧ (0 : BitVec 6).toNat ≤ 34 ∧ (34 : BitVec 6).toNat ≤ 34 ∧ 35 ≤ (35 : BitVec 6).toNat := by decide
theorem witness_RddReadsDurationBuffer :
    (necState [4, 5]).dbuf[(1 : BitVec 7).toNat]? = some 5 ∧ (necState [4, 5]).dbuf.length ≤ (2 : BitVec 7).toNat := by decide
theorem witness_RdfReadsFallbackBuffer :
    ({ State.reset with fb := [.mark] } : State).fb[(0 : BitVec 7).toNat]? = some .mark
      ∧ ({ State.reset with fb := [.mark] } : State).fb.length ≤ (1 : BitVec 7).toNat := by decide
/-- One place left, and none. -/
theorem witness_PushdAppends :
    (necState (List.replicate 63 0)).dbuf.length < (necState (List.replicate 63 0)).cfg.nDur
      ∧ (necState (List.replicate 64 0)).dbuf.length = (necState (List.replicate 64 0)).cfg.nDur := by decide
theorem witness_PushtAppendsDifference :
    (necState (List.replicate 63 0)).dbuf.length < (necState (List.replicate 63 0)).cfg.nDur
      ∧ (necState (List.replicate 64 0)).dbuf.length = (necState (List.replicate 64 0)).cfg.nDur := by decide
/-- Both ends of the window, and just outside them. -/
theorem witness_WincmpRunsDetector :
    ((detectorState 0).startLo.toNat ≤ (9000 : Ticks).toNat ∧ (9000 : Ticks).toNat ≤ (detectorState 0).startHi.toNat)
      ∧ ((detectorState 0).startLo.toNat ≤ (13500 : Ticks).toNat ∧ (13500 : Ticks).toNat ≤ (detectorState 0).startHi.toNat)
      ∧ ¬ ((detectorState 0).startLo.toNat ≤ (8999 : Ticks).toNat ∧ (8999 : Ticks).toNat ≤ (detectorState 0).startHi.toNat)
      ∧ ¬ ((detectorState 0).startLo.toNat ≤ (13501 : Ticks).toNat ∧ (13501 : Ticks).toNat ≤ (detectorState 0).startHi.toNat) := by
  decide
/-- The hypotheses of the last two clauses: RTOL = 0 and a duration at the window's lower end, with BREAK equal to a gap
(REPEAT is set) and one above it (REPEAT is not). -/
theorem witness_WincmpProperties :
    ({ detectorState 40000 with rtol := 0 } : State).rtol = 0
      ∧ ((detectorState 40000).startLo.toNat ≤ (9000 : Ticks).toNat ∧ (9000 : Ticks).toNat ≤ (detectorState 40000).startHi.toNat)
      ∧ after (exec (.wincmp 9000) { detectorState 40000 with rtol := 0 }) State.repeatGap = some true
      ∧ after (exec (.wincmp 9000) { detectorState 40001 with rtol := 0 }) State.repeatGap = some false := by decide
theorem witness_ClassStoresSymbol : CfgLegal (necState []) ∧ ¬ CfgLegal State.reset := by decide
/-- A tolerance of half the gap, with the ends of R143's range; a smaller one, with a duration between the windows. -/
theorem witness_ClassifierBoundaries :
    (Timing.mk 120 78 21).ok = true ∧ 21 = (120 - 78) / 2 ∧ 78 ≤ 57 + 21 ∧ 57 ≤ 120 + 21 ∧ 78 ≤ 141 + 21 ∧ 141 ≤ 120 + 21
      ∧ (Timing.mk 120 78 10).ok = true ∧ 78 + 10 < 89 ∧ 89 + 10 < 120 ∧ 67 + 10 < 78 ∧ 120 + 10 < 131 := by decide
theorem witness_WindowsShareOnlyTheMidpoint :
    (Timing.mk 120 78 21).ok = true ∧ near 99 120 21 = true ∧ near 99 78 21 = true ∧ 2 * 21 = 120 - 78 ∧ 2 * 99 = 120 + 78 := by decide
theorem witness_ConfigurationChecksGuardCommands :
    ¬ CfgLegal State.reset ∧ frameOf State.reset = none ∧ (Instr.classify 0).mnemonic ∈ [Mnemonic.classify, .recon, .enc] := by decide
theorem witness_ValStoresVerdict : frameOf (dhtState 0 0) = some ⟨.dht22, 40⟩ ∧ frameOf State.reset = none := by decide
theorem witness_NecReflectionCheck : (bitsOf 16 0x0CF3).length = 16 ∧ (bitsOf 32 0x0CF3E11E).length = 32 := by decide
theorem witness_DhtChecksumCheck : (bitsOf 40 0x028A00EB77).length = 40 := by decide
theorem witness_ValidatorChecksLengthFirst : (bitsOf 31 0).length ≠ (Frame.mk .nec 32).length := by decide
theorem witness_PackingIsInverse : (bitsOf 40 0x028A00EB77).length ≤ 40 ∧ (dhtState 0xFF 0).bsLen.toNat ≤ 40 := by decide
/-- Both ends of the lengths, and no legal configuration. -/
theorem witness_EncWritesCanonicalDurations :
    (CfgLegal (dhtState 1 2) ∧ (dhtState 1 2).bsLen.toNat ≤ 40)
      ∧ (CfgLegal { dhtState 1 2 with bsLen := 41 } ∧ 40 < ({ dhtState 1 2 with bsLen := 41 } : State).bsLen.toNat)
      ∧ ¬ CfgLegal State.reset := by decide
/-- One of the two checks fails: MODE = 3, then a TOL one above half the gap. -/
theorem witness_ReconNeedsConfiguration :
    ¬ (CfgLegal { necState [] with ctrl := 7 } ∧ (frameOf { necState [] with ctrl := 7 }).isSome = true)
      ∧ ¬ (CfgLegal { necState [] with tol := 563 } ∧ (frameOf { necState [] with tol := 563 }).isSome = true) := by decide
theorem witness_ReconCompletes : CfgLegal (necState [5]) ∧ frameOf (necState [5]) = some ⟨.nec, 32⟩ := by decide
theorem witness_ReconWritesFallbackPattern :
    (necState [5000, 600]).BuffersLegal ∧ CfgLegal (necState [5000, 600]) ∧ frameOf (necState [5000, 600]) = some ⟨.nec, 32⟩ := by decide
/-- A buffer with a Space in it is not all Ambiguous. -/
theorem not_allAmbiguous_of_mem {s : State} {d : Ticks} (h : d ∈ s.dbuf) (hd : symbolOf s d ≠ .ambiguous) : ¬ AllAmbiguous s :=
  fun ha => hd (ha.2 d h)
/-- RN13, RN6 and RN15's shapes: all Ambiguous; a run one above the bound; a product of 1 above MAXCOMB = 0. -/
theorem witness_ReconFailsFast :
    (CfgLegal (necState [5000]) ∧ frameOf (necState [5000]) = some ⟨.nec, 32⟩) ∧ AllAmbiguous (necState [5000])
      ∧ (¬ AllAmbiguous (necState [1125, 7313]) ∧ RunTooLong (necState [1125, 7313]))
      ∧ (¬ AllAmbiguous { necState [1125, 7312] with maxComb := 0 } ∧ ¬ RunTooLong { necState [1125, 7312] with maxComb := 0 }
          ∧ ({ necState [1125, 7312] with maxComb := 0 } : State).maxComb.toNat < productOf { necState [1125, 7312] with maxComb := 0 }) := by
  refine ⟨by decide, ⟨by decide, by simp only [necState, List.mem_singleton, forall_eq]; decide⟩,
    ⟨not_allAmbiguous_of_mem (d := 1125) (by decide) (by decide), ?_⟩,
    not_allAmbiguous_of_mem (d := 1125) (by decide) (by decide), ?_, by decide⟩ <;> unfold RunTooLong <;> decide
theorem witness_NoCandidateBeyondRangeBound : (Timing.mk 2250 1125 562).ok = true ∧ 3 * 2250 + 562 < 7313 := by decide
theorem witness_OdometerVisitsAllInOrder : ∀ n ∈ [3, 1, 2], 0 < n := by decide
/-- `test_recon_last_candidate`'s state: of its three combinations the last passes first. With an empty buffer the one
combination does not pass. -/
theorem witness_ReconFindsFirstCombination :
    (Enumerates { necState [2250, 3375] with ctrl := 4, frameLen := 4 }
      ∧ frameOf { necState [2250, 3375] with ctrl := 4, frameLen := 4 } = some ⟨.none, 4⟩
      ∧ (attempts { necState [2250, 3375] with ctrl := 4, frameLen := 4 })[2]? = some [true, false, false, false]
      ∧ Passes ⟨.none, 4⟩ [true, false, false, false]
      ∧ ∀ b' ∈ (attempts { necState [2250, 3375] with ctrl := 4, frameLen := 4 }).take 2, ¬ Passes ⟨.none, 4⟩ b')
      ∧ Enumerates (necState []) ∧ frameOf (necState []) = some ⟨.nec, 32⟩ ∧ ∀ b ∈ attempts (necState []), ¬ Passes ⟨.nec, 32⟩ b := by
  refine ⟨⟨⟨by decide, not_allAmbiguous_of_mem (d := 2250) (by decide) (by decide), ?_, by decide⟩, by decide, by decide, ?_, ?_⟩,
    ⟨by decide, fun h => h.1 rfl, ?_, by decide⟩, by decide, ?_⟩ <;> (try unfold RunTooLong) <;> (try unfold Passes) <;> decide
/-- 16 bits whose bytes are complementary. -/
theorem witness_EncReconRoundTrip :
    let s : State := { necState [] with frameLen := 16, bsLen := 16, bsLo := 0x0CF3, maxComb := 1 }
    CfgLegal s ∧ frameOf s = some ⟨.nec, 16⟩ ∧ s.bsLen = s.frameLen ∧ 1 ≤ s.maxComb.toNat
      ∧ (validate ⟨.nec, 16⟩ (bsBits s)).pass = true := by decide
theorem witness_ReconIsRepeatable : CfgLegal (necState [1125, 600]) ∧ frameOf (necState [1125, 600]) = some ⟨.nec, 32⟩ := by decide
/-- Every error of R210, and a word that raises none; the states fit their buffers, a full one included. -/
theorem witness_ErrorsArePreciseAndOrdered :
    (necState (List.replicate 64 0)).dbuf.length ≤ (necState (List.replicate 64 0)).cfg.nDur
      ∧ State.reset.dbuf.length ≤ State.reset.cfg.nDur
      ∧ firstError 0x04000000 State.reset = some 1 ∧ firstError 0x08FF0000 State.reset = some 2 ∧ firstError 0x0A230000 State.reset = some 3
      ∧ firstError 0x08220000 State.reset = some 4 ∧ firstError 0x10000005 (necState (List.replicate 64 0)) = some 5
      ∧ firstError 0x0C000000 State.reset = some 6 ∧ firstError 0x32000000 { State.reset with bsLen := 41 } = some 7
      ∧ firstError 0x31000000 State.reset = some 7 ∧ firstError 0x32000000 { necState [] with bsLen := 41 } = some 8
      ∧ firstError 0x32000000 (necState []) = none ∧ opOf 0x32000000 ≠ 0x01 ∧ opOf 0x32000000 ≠ 0x03 := by decide
/-- A next state, and an error recorded before the command. -/
theorem witness_OnlyTheirCommandsWrite :
    exec (.sett 9) { State.reset with err := true, errCode := 3 } = .next { State.reset with err := true, errCode := 3, lastTs := 9 }
      ∧ (Instr.sett 9).mnemonic ∈ [Mnemonic.nop, .clrd, .sett, .wincmp] := ⟨rfl, by decide⟩
theorem witness_StepKeepsLegalState :
    (withEdge (commandEdge 0x10000465) State.reset).Legal
      ∧ step (withEdge (commandEdge 0x10000465) State.reset) = .next { State.reset with dbuf := [1125] } := ⟨by decide, by rfl⟩

end Sys2Proof.Tests
end

/-! The answer to every accepted word (spec/30_encoding.md R87): the operand field of a decoded command, the opcode map in
numbers, and what an edge at which a word is accepted does. -/

namespace Sys2Proof.Proofs.Encoding

open Sys2Proof Sys2Proof.Machine Sys2Proof.Claims

/-! ### A word whose reserved bits are 0 is the encoding of the command read from it (R84, R85) -/

/-- A word whose reserved positions are 0 has 0 at each position its format reserves. -/
theorem getLsbD_of_reserved {w : Word} {f : Format} {k : Nat} (hr : w &&& f.reserved = 0)
    (hk : f.reserved.getLsbD k = true) : w.getLsbD k = false := by
  have hbit : (w &&& f.reserved).getLsbD k = false := by rw [hr]; exact BitVec.getLsbD_zero
  simpa [hk] using hbit

/-- Bit k of the operand field [23:0] is bit k of the word (R83). -/
theorem getLsbD_dataField (w : Word) {k : Nat} (hk : k < 24) : (dataField w).getLsbD k = w.getLsbD k := by
  simp [dataField, hk]

/-- A word's operand field in format R, where [23:22] are 0. -/
theorem regImm_fields {w : Word} (h : ∀ k < 24, 22 ≤ k → w.getLsbD k = false) :
    (0#2 ++ registerField w ++ immediateField w : BitVec 24) = dataField w := by
  refine BitVec.eq_of_getLsbD_eq fun k hk => ?_
  rw [getLsbD_regImm, getLsbD_dataField w hk]
  split
  case isTrue himm => simp [immediateField, himm]
  case isFalse himm =>
    split
    case isTrue hreg =>
      have hpos : k - 16 < 6 := by omega
      have hback : 16 + (k - 16) = k := by omega
      simp [registerField, hpos, hback]
    case isFalse hreg => exact (h k hk (by omega)).symm

/-- A word's operand field in format I, where [23:7] are 0. -/
theorem index_field {w : Word} (h : ∀ k < 24, 7 ≤ k → w.getLsbD k = false) :
    (0#17 ++ indexField w : BitVec 24) = dataField w := by
  refine BitVec.eq_of_getLsbD_eq fun k hk => ?_
  rw [getLsbD_index, getLsbD_dataField w hk]
  split
  case isTrue hidx => simp [indexField, hidx]
  case isFalse hidx => exact (h k hk (by omega)).symm

theorem immediateField_eq_zero {w : Word} (h : ∀ k < 16, w.getLsbD k = false) : immediateField w = 0 := by
  refine BitVec.eq_of_getLsbD_eq fun k hk => ?_
  simp [immediateField, BitVec.getLsbD_extractLsb', h k hk]

theorem dataField_eq_zero {w : Word} (h : ∀ k < 24, w.getLsbD k = false) : dataField w = 0 := by
  refine BitVec.eq_of_getLsbD_eq fun k hk => ?_
  rw [getLsbD_dataField w hk, h k hk, BitVec.ofNat_eq_ofNat, BitVec.getLsbD_zero]

/-- The operand field that a format writes from the operands of a word (R84, R85). -/
def operandsOf (f : Format) (w : Word) : BitVec 24 :=
  match f with
  | .none => 0
  | .regImm => 0#2 ++ registerField w ++ immediateField w
  | .query => 0#2 ++ registerField w ++ 0#16
  | .index => 0#17 ++ indexField w
  | .data => dataField w

/-- The operand field of a command read from a word is the one its format writes. -/
theorem operandField_withOperands (m : Mnemonic) (w : Word) :
    (m.withOperands w).operandField = operandsOf m.format w := by cases m <;> rfl

/-- With the reserved positions 0, what a format writes is the whole operand field it was read from. -/
theorem operandsOf_eq_dataField {f : Format} {w : Word} (hr : w &&& f.reserved = 0) :
    operandsOf f w = dataField w := by
  cases f with
  | none =>
    have hmask : ∀ k < 24, Format.none.reserved.getLsbD k = true := by decide
    exact (dataField_eq_zero fun k hk => getLsbD_of_reserved hr (hmask k hk)).symm
  | regImm =>
    have hmask : ∀ k < 24, 22 ≤ k → Format.regImm.reserved.getLsbD k = true := by decide
    exact regImm_fields fun k hk hge => getLsbD_of_reserved hr (hmask k hk hge)
  | query =>
    have hmask : ∀ k < 24, 22 ≤ k ∨ k < 16 → Format.query.reserved.getLsbD k = true := by decide
    have himm : immediateField w = 0 :=
      immediateField_eq_zero fun k hk => getLsbD_of_reserved hr (hmask k (by omega) (.inr hk))
    have hword := regImm_fields (w := w) fun k hk hge => getLsbD_of_reserved hr (hmask k hk (.inl hge))
    rwa [himm] at hword
  | index =>
    have hmask : ∀ k < 24, 7 ≤ k → Format.index.reserved.getLsbD k = true := by decide
    exact index_field fun k hk hge => getLsbD_of_reserved hr (hmask k hk hge)
  | data => rfl

/-- No bit of a word with a listed opcode and clear reserved positions is ignored (R84, R87). -/
theorem encode_withOperands {m : Mnemonic} {w : Word} (hop : opcodeField w = m.opcode)
    (hr : w &&& m.format.reserved = 0) : encode (m.withOperands w) = w := by
  calc encode (m.withOperands w)
      = (m.withOperands w).mnemonic.opcode ++ (m.withOperands w).operandField := rfl
    _ = opcodeField w ++ dataField w := by
        rw [withOperands_mnemonic, operandField_withOperands, operandsOf_eq_dataField hr, hop]
    _ = w := (word_eq_append w).symm

/-! ### The opcode map in numbers (R86) -/

theorem opOf_eq (w : Word) : opOf w = (opcodeField w).toNat := by
  simp only [opOf, opcodeField, BitVec.extractLsb'_toNat, Nat.shiftRight_eq_div_pow]
  omega

/-- The row of the opcode map that a mnemonic's opcode and format give. -/
def rowOf (m : Mnemonic) : Row := ⟨m, m.opcode.toNat, m.format.reserved.toNat⟩

/-- The rows of the map are those of the mnemonics. -/
theorem mem_opcodeRows_iff {row : Row} : row ∈ opcodeRows ↔ ∃ m, rowOf m = row := by
  have hrows : opcodeRows = Mnemonic.all.map rowOf := rfl
  have hall : ∀ m : Mnemonic, m ∈ Mnemonic.all := fun m => by cases m <;> decide
  simp [hrows, hall]

theorem opOf_eq_rowOf_iff {w : Word} {m : Mnemonic} : opOf w = (rowOf m).opcode ↔ opcodeField w = m.opcode := by
  rw [opOf_eq]; exact BitVec.toNat_inj

theorem and_rowOf_reserved_iff {w : Word} {m : Mnemonic} :
    w.toNat &&& (rowOf m).reserved = 0 ↔ w &&& m.format.reserved = 0 := by
  rw [BitVec.toNat_eq, BitVec.toNat_and]; rfl

/-- An opcode outside the map is no mnemonic's, so decoding answers `illegalOpcode` (R87). -/
theorem decode_illegal {w : Word} (h : ∀ row ∈ opcodeRows, opOf w ≠ row.opcode) :
    decode w = .error .illegalOpcode := by
  rcases decode_cases w with ⟨-, hdec⟩ | ⟨m, hop, -⟩
  · exact hdec
  · exact absurd (opOf_eq_rowOf_iff.mpr hop.symm) (h _ (mem_opcodeRows_iff.mpr ⟨m, rfl⟩))

/-! ### An edge at which a word is accepted (R81, R87) -/

/-- Out of reset and with no response waiting, the edge accepts the offered word. -/
theorem step_accepts {s : State} {e : PortEdge} {rest : List PortEdge} {w : Word} (hin : s.inputs = e :: rest)
    (hrst : e.rstN = true) (hcmd : e.cmd = some w) (hidle : s.inReset = false) (hrsp : s.rsp = none) :
    step s = acceptWord w { s with inputs := rest } := by
  simp [step, hin, clockEdge, hrst, hidle, State.cmdReady, State.busy, State.rspValid, hrsp, hcmd]

theorem acceptWord_ok {w : Word} {i : Instr} (h : decode w = .ok i) (s : State) : acceptWord w s = exec i s := by
  rw [acceptWord, h]

theorem acceptWord_error {w : Word} {err : DecodeError} (h : decode w = .error err) (s : State) :
    acceptWord w s = .next (rejectWord err s) := by
  rw [acceptWord, h]

theorem rejectWord_illegalOpcode (s : State) : rejectWord .illegalOpcode s = errored 1 s := rfl

/-- Only an erroring read responds (R87, R215). -/
theorem rejectWord_reservedBits (m : Mnemonic) (s : State) : rejectWord (.reservedBits m) s = erroredBy m 2 s := by
  cases m <;> rfl

/-- Settles O6: the step accepts the word, whose decoding the opcode map and the reserved positions decide. -/
theorem everyWordIsAnswered : Obligations.EveryWordIsAnswered := by
  unfold Obligations.EveryWordIsAnswered
  intro s e rest w hin hrst hcmd hidle hrsp
  rw [step_accepts hin hrst hcmd hidle hrsp]
  refine ⟨fun hnone => ?illegal, fun row hrow hopcode => ?listed⟩
  case illegal => rw [acceptWord_error (decode_illegal hnone), rejectWord_illegalOpcode]
  case listed =>
    obtain ⟨m, rfl⟩ := mem_opcodeRows_iff.mp hrow
    have hop : opcodeField w = m.opcode := opOf_eq_rowOf_iff.mp hopcode
    refine ⟨fun hset => ?reserved, fun hclear => ?command⟩
    case reserved =>
      have hres : w &&& m.format.reserved ≠ 0 := fun h => hset (and_rowOf_reserved_iff.mpr h)
      rw [acceptWord_error (decode_reserved hop hres), rejectWord_reservedBits]
      rfl
    case command =>
      have hres : w &&& m.format.reserved = 0 := and_rowOf_reserved_iff.mp hclear
      exact ⟨m.withOperands w, withOperands_mnemonic m w, encode_withOperands hop hres,
        acceptWord_ok (decode_ok hop hres) _⟩

end Sys2Proof.Proofs.Encoding

/-! The control commands (spec/40_control.md R100 to R103): the encoding of a command without operands, what each of the
four does to the state, and their statements. -/

namespace Sys2Proof.Proofs.Control

open Sys2Proof Sys2Proof.Machine Sys2Proof.Claims Sys2Proof.Proofs.Encoding

/-! ### A command without operands (format N of R84) -/

/-- A word built from its fields is the number R83 gives it. -/
theorem wordOf_toNat (op : BitVec 8) (x : BitVec 24) : wordOf op.toNat x.toNat = op ++ x := by
  apply BitVec.eq_of_toNat_eq
  rw [toNat_word, wordOf, BitVec.toNat_ofNat, Nat.mod_eq_of_lt (by omega)]

/-- A reserved bit of the mnemonic's row raises ERR_RESV, whatever the command (R87). -/
theorem reservedRaises_rowOf (m : Mnemonic) : ReservedRaises m (rowOf m).opcode (rowOf m).reserved := by
  intro w s hopcode hset
  have hop : opcodeField w = m.opcode := opOf_eq_rowOf_iff.mp hopcode
  have hres : w &&& m.format.reserved ≠ 0 := fun h => hset (and_rowOf_reserved_iff.mpr h)
  rw [acceptWord_error (decode_reserved hop hres), rejectWord_reservedBits]

theorem operandField_of_format_none {i : Instr} (h : i.mnemonic.format = .none) : i.operandField = 0 := by
  cases i <;> cases h <;> rfl

theorem withOperands_of_format_none {i : Instr} (h : i.mnemonic.format = .none) (w : Word) :
    i.mnemonic.withOperands w = i := by
  cases i <;> cases h <;> rfl

/-- The one word of a command without operands is its opcode over 24 zeros (R83, R84). -/
theorem encode_of_format_none {i : Instr} (h : i.mnemonic.format = .none) :
    encode i = wordOf i.mnemonic.opcode.toNat 0 := by
  rw [encode, operandField_of_format_none h]
  exact (wordOf_toNat i.mnemonic.opcode 0).symm

/-- A command without operands whose encoded word is lawful is encoded in format N. -/
theorem encodedN_of_format_none {i : Instr} (hword : Laws.EncodedWord.Statement i) (h : i.mnemonic.format = .none) :
    EncodedN i i.mnemonic.opcode.toNat := by
  obtain ⟨hop, hres, -⟩ := hword
  refine ⟨?decodes, ?reserved⟩
  case decodes => rw [← encode_of_format_none h, decode_ok hop hres, withOperands_of_format_none h]
  case reserved =>
    have hraises := reservedRaises_rowOf i.mnemonic
    rwa [rowOf, h] at hraises

/-! ### What the four commands do -/

theorem exec_nop (s : State) : exec .nop s = .next s := rfl
theorem exec_rst (s : State) : exec .rst s = .next (resetBlock s) := rfl
theorem exec_clrd (s : State) : exec .clrd s = .next { s with dbuf := [] } := rfl
theorem exec_clrst (s : State) : exec .clrst s = .next (acknowledge s) := rfl

/-- The block's reset is R231's state, written out in numbers; the parameters and the host's edges stay (R232). -/
theorem resetBlock_eq_resetState (s : State) : resetBlock s = resetState s.cfg false s.inputs := rfl

/-- With DONE and ERR both clear neither enable can hold `irq` up (R216, R218). -/
theorem acknowledge_irq (s : State) : (acknowledge s).irq = false := by simp [State.irq]

/-! ### The obligations -/

/-- Settles O12: NOP's next state is the state, and its word is format N's. -/
theorem nopChangesNothing : Obligations.NopChangesNothing :=
  ⟨exec_nop, encodedN_of_format_none Laws.EncodedWord.nop rfl⟩

/-- Settles O13: RST is the block's reset, which is R231's state. -/
theorem rstRestoresResetState : Obligations.RstRestoresResetState :=
  ⟨fun s => by rw [exec_rst, resetBlock_eq_resetState], encodedN_of_format_none Laws.EncodedWord.rst rfl⟩

/-- Settles O14: CLRD writes DBUF alone. -/
theorem clrdEmptiesDurationBuffer : Obligations.ClrdEmptiesDurationBuffer :=
  ⟨exec_clrd, encodedN_of_format_none Laws.EncodedWord.clrd rfl⟩

/-- Settles O15: CLRST is the acknowledge, after which `irq` is 0. -/
theorem clrstAcknowledges : Obligations.ClrstAcknowledges :=
  ⟨fun s => ⟨acknowledge s, exec_clrst s, rfl, acknowledge_irq s⟩,
    encodedN_of_format_none Laws.EncodedWord.clrst rfl⟩

end Sys2Proof.Proofs.Control

/-! Register and buffer access (spec/41_register_access.md R110 to R114): the words of formats R, Q and I, every register's
value in numbers (spec/10_state.md R21 to R47), what WR, WRH, RD, RDD and RDF do to the state, and their statements. -/

namespace Sys2Proof.Proofs.RegisterAccess

open Sys2Proof Sys2Proof.Machine Sys2Proof.Claims Sys2Proof.Proofs.Encoding Sys2Proof.Proofs.Control

/-! ### Bit fields as numbers -/

/-- The value of two fields side by side. -/
theorem toNat_append_eq_add {m n : Nat} (x : BitVec m) (y : BitVec n) :
    (x ++ y).toNat = x.toNat * 2 ^ n + y.toNat := by
  rw [BitVec.toNat_append, ← Nat.shiftLeft_add_eq_or_of_lt y.isLt, Nat.shiftLeft_eq]

theorem toNat_zero_append {m n : Nat} (x : BitVec n) : (0#m ++ x).toNat = x.toNat := by
  rw [toNat_append_eq_add, BitVec.toNat_zero, Nat.zero_mul, Nat.zero_add]

/-- The value of the n-bit field at position a. -/
theorem toNat_field {m : Nat} (w : BitVec m) (a n : Nat) : (w.extractLsb' a n).toNat = w.toNat / 2 ^ a % 2 ^ n := by
  rw [BitVec.extractLsb'_toNat, Nat.shiftRight_eq_div_pow]

/-! ### The words of formats R, Q and I (R84, R85) -/

theorem toNat_regImm (r : BitVec 6) (imm : BitVec 16) :
    (0#2 ++ r ++ imm : BitVec 24).toNat = r.toNat * 2 ^ 16 + imm.toNat := by
  have hreg : (0#2 ++ r).toNat = r.toNat := toNat_zero_append r
  exact (toNat_append_eq_add (0#2 ++ r) imm).trans (by rw [hreg])

theorem toNat_index (x : BitVec 7) : (0#17 ++ x : BitVec 24).toNat = x.toNat := toNat_zero_append x

theorem registerField_regImm (op : BitVec 8) (r : BitVec 6) (imm : BitVec 16) :
    registerField (op ++ (0#2 ++ r ++ imm : BitVec 24)) = r := by
  apply BitVec.eq_of_toNat_eq
  rw [registerField, toNat_field, toNat_word, toNat_regImm]
  omega

theorem immediateField_regImm (op : BitVec 8) (r : BitVec 6) (imm : BitVec 16) :
    immediateField (op ++ (0#2 ++ r ++ imm : BitVec 24)) = imm := by
  apply BitVec.eq_of_toNat_eq
  rw [immediateField, toNat_field, toNat_word, toNat_regImm]
  omega

theorem indexField_index (op : BitVec 8) (x : BitVec 7) : indexField (op ++ (0#17 ++ x : BitVec 24)) = x := by
  apply BitVec.eq_of_toNat_eq
  rw [indexField, toNat_field, toNat_word, toNat_index]
  omega

/-- The word of an opcode and an operand field that keeps the reserved positions 0 is read as the mnemonic's command. -/
theorem decode_wordOf (m : Mnemonic) (x : BitVec 24) (hres : (m.opcode ++ x : Word) &&& m.format.reserved = 0) :
    decode (wordOf m.opcode.toNat x.toNat) = .ok (m.withOperands (m.opcode ++ x)) := by
  rw [wordOf_toNat]
  exact decode_ok (opcodeField_append _ _) hres

theorem reservedRaises_of_format {m : Mnemonic} {f : Format} (hfmt : m.format = f) :
    ReservedRaises m m.opcode.toNat f.reserved.toNat := by
  subst hfmt
  exact reservedRaises_rowOf m

/-- A mnemonic of format R that takes its operands from the register and immediate fields is encoded in format R. -/
theorem encodedR_of_format {m : Mnemonic} {command : BitVec 6 → BitVec 16 → Instr} (hfmt : m.format = .regImm)
    (hread : ∀ w, m.withOperands w = command (registerField w) (immediateField w)) :
    EncodedR m command m.opcode.toNat := by
  refine ⟨fun r imm => ?decodes, reservedRaises_of_format hfmt⟩
  have hres : (m.opcode ++ (0#2 ++ r ++ imm : BitVec 24) : Word) &&& m.format.reserved = 0 := by
    rw [hfmt]; exact Laws.EncodedWord.regImm_reserved _ r imm
  have hword := decode_wordOf m (0#2 ++ r ++ imm) hres
  rwa [toNat_regImm, hread, registerField_regImm, immediateField_regImm] at hword

/-- A mnemonic of format Q that takes its operand from the register field is encoded in format Q. -/
theorem encodedQ_of_format {m : Mnemonic} {command : BitVec 6 → Instr} (hfmt : m.format = .query)
    (hread : ∀ w, m.withOperands w = command (registerField w)) : EncodedQ m command m.opcode.toNat := by
  refine ⟨fun r => ?decodes, reservedRaises_of_format hfmt⟩
  have hres : (m.opcode ++ (0#2 ++ r ++ 0#16 : BitVec 24) : Word) &&& m.format.reserved = 0 := by
    rw [hfmt]; exact Laws.EncodedWord.query_reserved _ r
  have hword := decode_wordOf m (0#2 ++ r ++ 0#16) hres
  rwa [toNat_regImm, BitVec.toNat_zero, Nat.add_zero, hread, registerField_regImm] at hword

/-- A mnemonic of format I that takes its operand from the index field is encoded in format I. -/
theorem encodedI_of_format {m : Mnemonic} {command : BitVec 7 → Instr} (hfmt : m.format = .index)
    (hread : ∀ w, m.withOperands w = command (indexField w)) : EncodedI m command m.opcode.toNat := by
  refine ⟨fun x => ?decodes, reservedRaises_of_format hfmt⟩
  have hres : (m.opcode ++ (0#17 ++ x : BitVec 24) : Word) &&& m.format.reserved = 0 := by
    rw [hfmt]; exact Laws.EncodedWord.index_reserved _ x
  have hword := decode_wordOf m (0#17 ++ x) hres
  rwa [toNat_index, hread, indexField_index] at hword

/-! ### The errors and the response, as the statements write them (R82, R211, R215) -/

theorem raiseError_eq_errored (c : ErrorCode) (s : State) : raiseError c s = errored c.code s := rfl

theorem raiseReadError_eq_erroredRead (c : ErrorCode) (s : State) : raiseReadError c s = erroredRead c.code s := rfl

theorem respond_eq_answered (v : Word) (s : State) : respond v s = answered v.toNat s := by
  rw [answered, BitVec.ofNat_toNat, BitVec.setWidth_eq]; rfl

/-! ### The read-write registers in numbers -/

theorem rwWidths_getD (q : RwReg) : rwWidths.getD q.number 0 = q.width := by cases q <;> rfl

theorem rwFields_getD (s : State) (q : RwReg) : (rwFields s).getD q.number 0 = (readRw s q).toNat := by
  symm
  cases q with
  | bsLo => rfl
  | ctrl | markLen | spaceLen | tol | frameLen | minCls | maxComb | startLo | startHi | rgap0 | rgap1 | rtol | bsHi
  | bsLen | lastTs => exact BitVec.toNat_setWidth_of_le (by decide)

/-- A write sets its own register, masked to the field, and no other (R22). -/
theorem rwFields_writeRw (q : RwReg) (v : Word) (s : State) :
    rwFields (writeRw q v s) = (rwFields s).set q.number (v.toNat % 2 ^ q.width) := by
  have hword : v.toNat % 2 ^ 32 = v.toNat := Nat.mod_eq_of_lt v.isLt
  cases q with
  | bsLo => rw [RwReg.width, hword]; rfl
  | ctrl | markLen | spaceLen | tol | frameLen | minCls | maxComb | startLo | startHi | rgap0 | rgap1 | rtol | bsHi
  | bsLen | lastTs => rfl

theorem sameOutsideRw_writeRw (q : RwReg) (v : Word) (s : State) : SameOutsideRw s (writeRw q v s) := by
  cases q <;> rfl

/-- A register write whose stored value is `f` of the old one, in numbers (R110, R111). -/
theorem writeRegister_rw {r : BitVec 6} {value : Word → Word} (f : Nat → Nat)
    (hvalue : ∀ old, (value old).toNat = f old.toNat) (s : State) (hr : r.toNat ≤ 15) :
    rwFields (writeRegister r value s)
        = (rwFields s).set r.toNat (f ((rwFields s).getD r.toNat 0) % 2 ^ rwWidths.getD r.toNat 0)
      ∧ SameOutsideRw s (writeRegister r value s) := by
  obtain ⟨q, hname, hnum⟩ := ofNumber_rw hr
  have hwrite : writeRegister r value s = writeRw q (value (readRw s q)) s := by rw [writeRegister, hname]
  rw [hwrite, ← hnum, rwFields_writeRw, hvalue, rwFields_getD, rwWidths_getD]
  exact ⟨rfl, sameOutsideRw_writeRw q _ s⟩

theorem writeRegister_ro {r : BitVec 6} (value : Word → Word) (s : State) (h : 16 ≤ r.toNat) (h' : r.toNat ≤ 34) :
    writeRegister r value s = errored 4 s := by
  obtain ⟨q, hname⟩ := ofNumber_ro h h'
  rw [writeRegister, hname]
  exact raiseError_eq_errored .ro s

theorem writeRegister_undefined {r : BitVec 6} (value : Word → Word) (s : State) (h : 35 ≤ r.toNat) :
    writeRegister r value s = errored 3 s := by
  rw [writeRegister, ofNumber_undefined h]
  exact raiseError_eq_errored .badReg s

/-! ### STATUS and the lengths in numbers (R36, R39, R42) -/

theorem cfgOk_eq_decide (s : State) : s.cfgOk = decide (CfgLegal s) :=
  Bool.eq_iff_iff.mpr ((cfgOk_iff s).trans decide_eq_true_iff.symm)

/-- The frame a state names, by MODE's four values (R180). -/
theorem frameConfig_eq_frameOf (s : State) : s.frameConfig = frameOf s := by
  have hmode : s.ctrl.toNat % 4 < 4 := Nat.mod_lt _ (by decide)
  have hmax : Config.bsMax = 40 := rfl
  unfold State.frameConfig frameOf
  rw [mode_eq, hmax]
  interval_cases s.ctrl.toNat % 4 <;> simp

theorem irq_eq_irqLevel (s : State) : s.irq = irqLevel s := rfl

/-- The seven flags of STATUS each count their place's power of two. -/
theorem toNat_flagBits : ∀ b0 b1 b2 b3 b4 b5 b6 : Bool,
    (flagBit 0 b0 ||| flagBit 1 b1 ||| flagBit 2 b2 ||| flagBit 3 b3 ||| flagBit 4 b4 ||| flagBit 5 b5
        ||| flagBit 6 b6).toNat
      = b0.toNat + 2 * b1.toNat + 4 * b2.toNat + 8 * b3.toNat + 16 * b4.toNat + 32 * b5.toNat + 64 * b6.toNat := by
  decide

theorem toNat_statusWord (s : State) : s.statusWord.toNat = statusNumber s := by
  rw [State.statusWord, toNat_flagBits, cfgOk_eq_decide, State.frameOk, frameConfig_eq_frameOf, irq_eq_irqLevel]
  rfl

/-- A length of at most 127 fits its 7-bit field. -/
theorem toNat_lengthWord {n : Nat} (h : n ≤ 127) : (lengthWord n).toNat = n := by
  rw [lengthWord, BitVec.toNat_setWidth_of_le (by decide), BitVec.toNat_ofNat, Nat.mod_eq_of_lt (by omega)]

/-! ### The views in numbers (R199 to R204) -/

/-- A view reads 0 unless BS_LEN is its frame's length. -/
theorem toNat_ite_bsLen {w : Word} {n : Nat} (hw : w.toNat = n) (s : State) (len : BitVec 6) :
    (if s.bsLen = len then w else 0).toNat = if s.bsLen.toNat = len.toNat then n else 0 := by
  by_cases h : s.bsLen = len
  case pos => rw [if_pos h, if_pos (congrArg BitVec.toNat h), hw]
  case neg => rw [if_neg h, if_neg (h <| BitVec.eq_of_toNat_eq ·)]; rfl

theorem toNat_necHex (s : State) : s.necHex.toNat = necHexOf s := by
  refine toNat_ite_bsLen ?_ s 32
  have hcommand : (if s.hexSel then s.bsLo.extractLsb' 0 8 else s.bsLo.extractLsb' 8 8).toNat
      = if s.ctrl.toNat.testBit 2 then s.bsLo.toNat % 2 ^ 8 else s.bsLo.toNat / 2 ^ 8 % 2 ^ 8 := by
    rw [apply_ite BitVec.toNat, toNat_field, toNat_field, pow_zero, Nat.div_one]; rfl
  refine (toNat_append_eq_add (0#16 ++ s.bsLo.extractLsb' 24 8) _).trans ?_
  rw [hcommand, toNat_zero_append, toNat_field, Nat.mod_eq_of_lt (by omega)]

theorem toNat_necAddr (s : State) : s.necAddr.toNat = necAddrOf s := by
  refine toNat_ite_bsLen ((toNat_zero_append _).trans ?_) s 32
  rw [toNat_field]; omega

theorem toNat_necCmd (s : State) : s.necCmd.toNat = necCmdOf s := by
  refine toNat_ite_bsLen ((toNat_zero_append _).trans ?_) s 32
  rw [toNat_field]; omega

theorem toNat_dhtHum (s : State) : s.dhtHum.toNat = dhtHumOf s := by
  refine toNat_ite_bsLen ((toNat_append_eq_add (0#16 ++ s.bsHi) _).trans ?_) s 40
  rw [toNat_zero_append, toNat_field]; omega

theorem toNat_dhtTemp (s : State) : s.dhtTemp.toNat = dhtTempOf s := by
  refine toNat_ite_bsLen ?_ s 40
  have hmagnitude : (((s.bsLo.extractLsb' 8 16).extractLsb' 0 15).setWidth 32).toNat
      = s.bsLo.toNat / 2 ^ 8 % 2 ^ 16 % 2 ^ 15 := by
    rw [BitVec.toNat_setWidth_of_le (by decide), toNat_field, toNat_field, pow_zero, Nat.div_one]
  refine (apply_ite BitVec.toNat _ _ _).trans ?_
  rw [BitVec.toNat_neg, hmagnitude, ← toNat_field]
  rfl

theorem toNat_dhtCsum (s : State) : s.dhtCsum.toNat = dhtCsumOf s := by
  refine toNat_ite_bsLen ((toNat_zero_append _).trans ?_) s 40
  rw [toNat_field]; omega

/-! ### Every register's read value (R21) -/

/-- The number of a read-only register (R21). -/
def roNumber : RoReg → Nat
  | .status => 16 | .errCode => 17 | .rres => 18 | .dcnt => 19 | .ncls => 20 | .nruns => 21 | .ncomb => 22
  | .ntried => 23 | .fbLen => 24 | .vstat => 25 | .csum => 26 | .cls => 27 | .brk => 28 | .necHex => 29
  | .necAddr => 30 | .necCmd => 31 | .dhtHum => 32 | .dhtTemp => 33 | .dhtCsum => 34

theorem ofNumber_roNumber {r : BitVec 6} (h : 16 ≤ r.toNat) (h' : r.toNat ≤ 34) :
    ∃ q, RegName.ofNumber r = .ro q ∧ roNumber q = r.toNat := by
  unfold RegName.ofNumber
  interval_cases r.toNat <;> exact ⟨_, rfl, rfl⟩

theorem toNat_readRw (s : State) (q : RwReg) : (readRw s q).toNat = (registerValues s).getD q.number 0 := by
  have hlt : q.number < 16 := by cases q <;> decide
  rw [registerValues, List.getD_append _ _ _ _ hlt, rwFields_getD]

/-- Only DCNT and FBLEN need the buffers to fit: their fields are 7 bits wide (R39, R42). -/
theorem toNat_readRo {s : State} (h : s.BuffersLegal) (q : RoReg) :
    (readRo s q).toNat = (registerValues s).getD (roNumber q) 0 := by
  obtain ⟨⟨-, hdepth⟩, hdbuf, hfb, -⟩ := h
  cases q with
  | status => exact toNat_statusWord s
  | dcnt => exact toNat_lengthWord (hdbuf.trans hdepth)
  | fbLen => exact toNat_lengthWord (hfb.trans hdepth)
  | csum => rfl
  | necHex => exact toNat_necHex s
  | necAddr => exact toNat_necAddr s
  | necCmd => exact toNat_necCmd s
  | dhtHum => exact toNat_dhtHum s
  | dhtTemp => exact toNat_dhtTemp s
  | dhtCsum => exact toNat_dhtCsum s
  | errCode | rres | ncls | nruns | ncomb | ntried | vstat | cls | brk =>
    exact BitVec.toNat_setWidth_of_le (by decide)

/-! ### What the five commands do -/

theorem exec_wr (r : BitVec 6) (imm : BitVec 16) (s : State) :
    exec (.wr r imm) s = .next (writeRegister r (fun _ => lowImmediate imm) s) := rfl
theorem exec_wrh (r : BitVec 6) (imm : BitVec 16) (s : State) :
    exec (.wrh r imm) s = .next (writeRegister r (highImmediate imm) s) := rfl
theorem exec_rd (r : BitVec 6) (s : State) : exec (.rd r) s = execRd r s := rfl
theorem exec_rdd (x : BitVec 7) (s : State) :
    exec (.rdd x) s = .next (readBuffer (s.dbuf[x.toNat]?.map (·.setWidth 32)) s) := rfl
theorem exec_rdf (x : BitVec 7) (s : State) :
    exec (.rdf x) s = .next (readBuffer (s.fb[x.toNat]?.map (·.code.setWidth 32)) s) := rfl

theorem exec_rd_rw {r : BitVec 6} (s : State) (hr : r.toNat ≤ 15) :
    exec (.rd r) s = .next (answered ((registerValues s).getD r.toNat 0) s) := by
  obtain ⟨q, hname, hnum⟩ := ofNumber_rw hr
  rw [exec_rd, execRd, hname, ← hnum, ← toNat_readRw, ← respond_eq_answered]

theorem exec_rd_ro {r : BitVec 6} {s : State} (h : s.BuffersLegal) (hr : 16 ≤ r.toNat) (hr' : r.toNat ≤ 34) :
    exec (.rd r) s = .next (answered ((registerValues s).getD r.toNat 0) s) := by
  obtain ⟨q, hname, hnum⟩ := ofNumber_roNumber hr hr'
  rw [exec_rd, execRd, hname, ← hnum, ← toNat_readRo h, ← respond_eq_answered]

theorem exec_rd_undefined {r : BitVec 6} (s : State) (hr : 35 ≤ r.toNat) :
    exec (.rd r) s = .next (erroredRead 3 s) := by
  rw [exec_rd, execRd, ofNumber_undefined hr]
  exact congrArg _ (raiseReadError_eq_erroredRead .badReg s)

/-- A buffer read inside the buffer answers the element's word. -/
theorem readBuffer_of_getElem? {α : Type} {buf : List α} {i : Nat} {a : α} (h : buf[i]? = some a) (word : α → Word)
    (s : State) : readBuffer (buf[i]?.map word) s = answered (word a).toNat s := by
  rw [h, Option.map_some, readBuffer, respond_eq_answered]

/-- A buffer read from the length on raises ERR_INDEX and responds 0. -/
theorem readBuffer_of_length_le {α : Type} {buf : List α} {i : Nat} (h : buf.length ≤ i) (word : α → Word)
    (s : State) : readBuffer (buf[i]?.map word) s = erroredRead 6 s := by
  rw [List.getElem?_eq_none h, Option.map_none, readBuffer]
  exact raiseReadError_eq_erroredRead .index s

theorem toNat_code (c : Symbol) : (c.code.setWidth 32).toNat = codeOf c := by cases c <;> rfl

/-! ### The obligations -/

/-- Settles O16: WR stores imm16, whatever the register held. -/
theorem wrStoresLowHalf : Obligations.WrStoresLowHalf := by
  refine ⟨fun r imm s hr => ?stores, fun r imm s h h' => ?readOnly, fun r imm s h => ?undefined, ?encoding⟩
  case stores => exact ⟨_, exec_wr r imm s, writeRegister_rw (fun _ => imm.toNat) (fun _ => toNat_lowImmediate imm) s hr⟩
  case readOnly => rw [exec_wr, writeRegister_ro _ s h h']
  case undefined => rw [exec_wr, writeRegister_undefined _ s h]
  case encoding => exact encodedR_of_format (m := .wr) rfl fun _ => rfl

/-- Settles O17: WRH stores imm16 above the low half the register held. -/
theorem wrhStoresHighHalf : Obligations.WrhStoresHighHalf := by
  refine ⟨fun r imm s hr => ?stores, fun r imm s h h' => ?readOnly, fun r imm s h => ?undefined, ?encoding⟩
  case stores =>
    exact ⟨_, exec_wrh r imm s,
      writeRegister_rw (fun old => imm.toNat * 2 ^ 16 + old % 2 ^ 16) (toNat_highImmediate imm) s hr⟩
  case readOnly => rw [exec_wrh, writeRegister_ro _ s h h']
  case undefined => rw [exec_wrh, writeRegister_undefined _ s h]
  case encoding => exact encodedR_of_format (m := .wrh) rfl fun _ => rfl

/-- Settles O19: the number names a read-write register, a read-only one or none. -/
theorem rdRespondsWithRegister : Obligations.RdRespondsWithRegister := by
  refine ⟨fun r s hbuf hr => ?answers, fun r s hr => exec_rd_undefined s hr, ?encoding⟩
  case answers =>
    rcases Nat.lt_or_ge r.toNat 16 with hlow | hhigh
    · exact exec_rd_rw s (Nat.le_of_lt_succ hlow)
    · exact exec_rd_ro hbuf hhigh hr
  case encoding => exact encodedQ_of_format (m := .rd) rfl fun _ => rfl

/-- Settles O23: RDD is a buffer read of DBUF, its durations widened to words. -/
theorem rddReadsDurationBuffer : Obligations.RddReadsDurationBuffer := by
  refine ⟨fun x s d hd => ?element, fun x s hx => ?beyond, ?encoding⟩
  case element =>
    have hwidth : (d.setWidth 32).toNat = d.toNat := BitVec.toNat_setWidth_of_le (by decide)
    rw [exec_rdd, readBuffer_of_getElem? hd, hwidth]
  case beyond => rw [exec_rdd, readBuffer_of_length_le hx]
  case encoding => exact encodedI_of_format (m := .rdd) rfl fun _ => rfl

/-- Settles O24: RDF is a buffer read of FB, its symbols as their codes. -/
theorem rdfReadsFallbackBuffer : Obligations.RdfReadsFallbackBuffer := by
  refine ⟨fun x s c hc => ?element, fun x s hx => ?beyond, ?encoding⟩
  case element => rw [exec_rdf, readBuffer_of_getElem? hc, toNat_code]
  case beyond => rw [exec_rdf, readBuffer_of_length_le hx]
  case encoding => exact encodedI_of_format (m := .rdf) rfl fun _ => rfl

end Sys2Proof.Proofs.RegisterAccess

/-! The duration input commands (spec/42_input.md R120 to R122): the words of format D, when DBUF takes a duration, the
wrapping difference of two timestamps, what PUSHD, PUSHT and SETT do to the state, and their statements. -/

namespace Sys2Proof.Proofs.Input

open Sys2Proof Sys2Proof.Machine Sys2Proof.Claims Sys2Proof.Proofs.RegisterAccess

/-! ### The words of format D (R84, R85) -/

/-- A mnemonic of format D that takes its operand from the operand field is encoded in format D. -/
theorem encodedD_of_format {m : Mnemonic} {command : Ticks → Instr} (hfmt : m.format = .data)
    (hread : ∀ w, m.withOperands w = command (dataField w)) : EncodedD command m.opcode.toNat := by
  intro d
  have hres : (m.opcode ++ d : Word) &&& m.format.reserved = 0 := by rw [hfmt]; exact BitVec.and_zero
  rw [decode_wordOf m d hres, hread, dataField_append]

/-! ### Room in DBUF and the difference of timestamps (R9, R120, R121) -/

/-- With room in DBUF a push goes ahead. -/
theorem ite_dbufFull_of_lt {s : State} (h : s.dbuf.length < s.cfg.nDur) (full pushed : State) :
    (if dbufFull s then full else pushed) = pushed :=
  if_neg (by rw [dbufFull, decide_eq_true_iff]; exact Nat.not_le_of_lt h)

/-- With N_DUR durations in DBUF a push is refused. -/
theorem ite_dbufFull_of_eq {s : State} (h : s.dbuf.length = s.cfg.nDur) (full pushed : State) :
    (if dbufFull s then full else pushed) = full :=
  if_pos (by rw [dbufFull, decide_eq_true_iff]; exact Nat.le_of_eq h.symm)

/-- Subtraction of timestamps is the integer difference modulo 2^24. -/
theorem sub_eq_ofInt_emod (t u : Ticks) : t - u = BitVec.ofInt 24 (((t.toNat : Int) - u.toNat) % 2 ^ 24) := by
  apply BitVec.eq_of_toNat_eq
  rw [BitVec.toNat_sub, BitVec.toNat_ofInt]
  omega

/-! ### What the three commands do -/

theorem exec_pushd (d : Ticks) (s : State) :
    exec (.pushd d) s = .next (if dbufFull s then errored 5 s else { s with dbuf := s.dbuf ++ [d] }) := rfl
theorem exec_pusht (t : Ticks) (s : State) :
    exec (.pusht t) s =
      .next (if dbufFull s then errored 5 s else { s with dbuf := s.dbuf ++ [t - s.lastTs], lastTs := t }) := rfl
theorem exec_sett (t : Ticks) (s : State) : exec (.sett t) s = .next { s with lastTs := t } := rfl

/-! ### The obligations -/

/-- Settles O25: PUSHD appends where DBUF has room and is refused where it has none. -/
theorem pushdAppends : Obligations.PushdAppends := by
  refine ⟨fun d s hroom => ?appends, fun d s hfull => ?refused, ?encoding⟩
  case appends => rw [exec_pushd, ite_dbufFull_of_lt hroom]
  case refused => rw [exec_pushd, ite_dbufFull_of_eq hfull]
  case encoding => exact encodedD_of_format (m := .pushd) rfl fun _ => rfl

/-- Settles O26: PUSHT appends the difference from LAST_TS where DBUF has room and is refused where it has none. -/
theorem pushtAppendsDifference : Obligations.PushtAppendsDifference := by
  refine ⟨fun u s hroom => ?appends, fun u s hfull => ?refused, ?encoding⟩
  case appends => rw [exec_pusht, ite_dbufFull_of_lt hroom, sub_eq_ofInt_emod]
  case refused => rw [exec_pusht, ite_dbufFull_of_eq hfull]
  case encoding => exact encodedD_of_format (m := .pusht) rfl fun _ => rfl

/-- Settles O27: SETT writes LAST_TS alone. -/
theorem settSetsStartMarker : Obligations.SettSetsStartMarker :=
  ⟨exec_sett, encodedD_of_format (m := .sett) rfl fun _ => rfl⟩

end Sys2Proof.Proofs.Input

/-! The start detector (spec/43_window_comparator.md R130 to R133): the repeat-gap match in numbers, the two outcomes of
WINCMP, and their statements. -/

namespace Sys2Proof.Proofs.WindowComparator

open Sys2Proof Sys2Proof.Machine Sys2Proof.Claims Sys2Proof.Proofs.Input

/-! ### The repeat-gap match (R132) -/

theorem mode_eq_nec_iff (s : State) : s.mode = .nec ↔ s.ctrl.toNat % 4 = 1 := by
  rw [mode_eq]
  split <;> simp_all

theorem gapMatches_iff (s : State) (gap : Ticks) :
    gapMatches s gap = true ↔
      gap.toNat ≠ 0 ∧ ((s.brk.toNat : Int) - gap.toNat).natAbs ≤ s.rtol.toNat := by
  have hzero : gap ≠ 0 ↔ gap.toNat ≠ 0 := not_congr (BitVec.toNat_inj (y := 0)).symm
  rw [gapMatches, Bool.and_eq_true, decide_eq_true_iff, near_iff, hzero]

theorem repeatMatch_iff (s : State) :
    repeatMatch s = true ↔ s.ctrl.toNat % 4 = 1
      ∧ ((s.rgap0.toNat ≠ 0 ∧ ((s.brk.toNat : Int) - s.rgap0.toNat).natAbs ≤ s.rtol.toNat)
        ∨ (s.rgap1.toNat ≠ 0 ∧ ((s.brk.toNat : Int) - s.rgap1.toNat).natAbs ≤ s.rtol.toNat)) := by
  rw [repeatMatch, Bool.and_eq_true, decide_eq_true_iff, mode_eq_nec_iff, Bool.or_eq_true, gapMatches_iff, gapMatches_iff]

/-- With no tolerance only equal durations are near each other (R133). -/
theorem natAbs_sub_le_zero_iff (b gap : Ticks) :
    ((b.toNat : Int) - gap.toNat).natAbs ≤ (0 : Ticks).toNat ↔ b = gap := by
  rw [← BitVec.toNat_inj, BitVec.ofNat_eq_ofNat, BitVec.toNat_zero]
  omega

theorem repeatMatch_iff_of_rtol_eq_zero {s : State} (h : s.rtol = 0) :
    repeatMatch s = true ↔ s.ctrl.toNat % 4 = 1
      ∧ ((s.rgap0.toNat ≠ 0 ∧ s.brk = s.rgap0) ∨ (s.rgap1.toNat ≠ 0 ∧ s.brk = s.rgap1)) := by
  rw [repeatMatch_iff, h, natAbs_sub_le_zero_iff, natAbs_sub_le_zero_iff]

/-! ### The two outcomes of WINCMP (R131) -/

/-- The state after a duration inside the window. -/
def armDetector (s : State) : State := { s with armed := true, repeatGap := repeatMatch s }

/-- The state after a duration outside the window. -/
def goIdle (d : Ticks) (s : State) : State := { s with armed := false, repeatGap := false, brk := d }

theorem exec_wincmp_of_inside {d : Ticks} {s : State}
    (h : s.startLo.toNat ≤ d.toNat ∧ d.toNat ≤ s.startHi.toNat) : exec (.wincmp d) s = .next (armDetector s) :=
  congrArg _ (if_pos ((inWindow_iff _ _ _).mpr h))

theorem exec_wincmp_of_outside {d : Ticks} {s : State}
    (h : ¬ (s.startLo.toNat ≤ d.toNat ∧ d.toNat ≤ s.startHi.toNat)) : exec (.wincmp d) s = .next (goIdle d s) :=
  congrArg _ (if_neg (mt (inWindow_iff _ _ _).mp h))

/-- The match reads nothing that arming writes, so arming again changes nothing (R133). -/
theorem armDetector_armDetector (s : State) : armDetector (armDetector s) = armDetector s := rfl

/-! ### The obligations -/

/-- Settles O28: inside the window the detector arms and REPEAT is R132's match; outside it goes Idle. -/
theorem wincmpRunsDetector : Obligations.WincmpRunsDetector := by
  refine ⟨fun d s hlo hhi => ?inside, fun d s h => exec_wincmp_of_outside h, ?encoding⟩
  case inside =>
    have hmatch : repeatMatch s = decide _ :=
      Bool.eq_iff_iff.mpr ((repeatMatch_iff s).trans decide_eq_true_iff.symm)
    rw [exec_wincmp_of_inside ⟨hlo, hhi⟩, armDetector, hmatch]
  case encoding => exact encodedD_of_format (m := .wincmp) rfl fun _ => rfl

/-- Settles O29: inside the window the next state is `armDetector s`, whose REPEAT is the match; outside it is `goIdle d s`,
whose REPEAT is 0. -/
theorem wincmpProperties : Obligations.WincmpProperties := by
  intro d s
  by_cases hwin : s.startLo.toNat ≤ d.toNat ∧ d.toNat ≤ s.startHi.toNat
  case pos =>
    refine ⟨armDetector s, exec_wincmp_of_inside hwin, fun _ => rfl, fun hout => absurd hwin hout, fun _ _ => ?again,
      fun hrtol hrep => ?equal, fun hrtol _ _ => repeatMatch_iff_of_rtol_eq_zero hrtol⟩
    case again =>
      have hwin' : (armDetector s).startLo.toNat ≤ d.toNat ∧ d.toNat ≤ (armDetector s).startHi.toNat := hwin
      rw [exec_wincmp_of_inside hwin', armDetector_armDetector]
    case equal =>
      obtain ⟨-, hgap⟩ := (repeatMatch_iff_of_rtol_eq_zero hrtol).mp hrep
      exact hgap.imp And.right And.right
  case neg =>
    exact ⟨goIdle d s, exec_wincmp_of_outside hwin, fun hrep => absurd hrep Bool.false_ne_true, fun _ => rfl,
      fun hlo hhi => absurd ⟨hlo, hhi⟩ hwin, fun _ hrep => absurd hrep Bool.false_ne_true,
      fun _ hlo hhi => absurd ⟨hlo, hhi⟩ hwin⟩

end Sys2Proof.Proofs.WindowComparator

/-! The pulse duration classifier (spec/44_classifier.md R140 to R144): the windows of `classify` and how they lie under
CFGOK, the CFGOK and FRAMEOK flags of STATUS (spec/46_validator.md R180), the commands the two checks guard, and their
statements. -/

namespace Sys2Proof.Proofs.Classifier

open Sys2Proof Sys2Proof.Machine Sys2Proof.Claims Sys2Proof.Proofs.RegisterAccess Sys2Proof.Proofs.Input

/-! ### The three answers of `classify` by its windows (R141) -/

theorem classify_eq_mark_iff (t : Timing) (d : Nat) : classify t d = .mark ↔ near d t.mark t.tol = true := by
  unfold classify
  split
  case isTrue hmark => exact iff_of_true rfl hmark
  case isFalse hmark => split <;> simp [hmark]

theorem classify_eq_ambiguous_iff (t : Timing) (d : Nat) :
    classify t d = .ambiguous ↔ ¬ near d t.mark t.tol = true ∧ ¬ near d t.space t.tol = true := by
  unfold classify
  split
  case isTrue hmark => simp [hmark]
  case isFalse hmark => split <;> simp [*]

theorem classify_eq_space_iff (t : Timing) (d : Nat) :
    classify t d = .space ↔ ¬ near d t.mark t.tol = true ∧ near d t.space t.tol = true := by
  unfold classify
  split
  case isTrue hmark => simp [hmark]
  case isFalse hmark => split <;> simp [*]

/-! ### How the windows lie in a legal configuration (R140, R142, R143) -/

section Legal

variable {t : Timing} {d : Nat}

/-- The upper half of a Mark's window, both ends of it included. -/
theorem classify_of_mark_le (hlo : t.mark ≤ d) (hhi : d ≤ t.mark + t.tol) : classify t d = .mark := by
  rw [classify_eq_mark_iff, near_iff_window]
  omega

/-- Below a Space's window no Mark's window begins. -/
theorem classify_of_lt_space (hok : t.ok = true) (h : d + t.tol < t.space) : classify t d = .ambiguous := by
  obtain ⟨-, hlt, -⟩ := (timing_ok_iff t).mp hok
  rw [classify_eq_ambiguous_iff, near_iff_window, near_iff_window]
  omega

/-- Above a Mark's window no Space's window reaches. -/
theorem classify_of_mark_lt (hok : t.ok = true) (h : t.mark + t.tol < d) : classify t d = .ambiguous := by
  obtain ⟨-, hlt, -⟩ := (timing_ok_iff t).mp hok
  rw [classify_eq_ambiguous_iff, near_iff_window, near_iff_window]
  omega

/-- Strictly between the windows, in any configuration. -/
theorem classify_of_between (hlo : t.space + t.tol < d) (hhi : d + t.tol < t.mark) : classify t d = .ambiguous := by
  rw [classify_eq_ambiguous_iff, near_iff_window, near_iff_window]
  omega

/-- With TOL half the gap, rounded down, a Mark's window begins at most one tick after a Space's ends. -/
theorem classify_ne_ambiguous_of_half_gap (hok : t.ok = true) (htol : t.tol = (t.mark - t.space) / 2)
    (hlo : t.space ≤ d + t.tol) (hhi : d ≤ t.mark + t.tol) : classify t d ≠ .ambiguous := by
  obtain ⟨-, hlt, -⟩ := (timing_ok_iff t).mp hok
  rw [Ne, classify_eq_ambiguous_iff, near_iff_window, near_iff_window]
  omega

/-- The gap is at least twice TOL, so the space length itself lies below a Mark's window. -/
theorem classify_space (hok : t.ok = true) : classify t t.space = .space := by
  obtain ⟨-, hlt, hgap⟩ := (timing_ok_iff t).mp hok
  rw [classify_eq_space_iff, near_iff_window, near_iff_window]
  omega

/-- A duration in both windows forces the gap to be twice TOL, and is its middle. -/
theorem near_both_iff (hok : t.ok = true) :
    near d t.mark t.tol = true ∧ near d t.space t.tol = true
      ↔ 2 * t.tol = t.mark - t.space ∧ 2 * d = t.mark + t.space := by
  obtain ⟨-, hlt, hgap⟩ := (timing_ok_iff t).mp hok
  rw [near_iff_window, near_iff_window]
  omega

end Legal

/-! ### The symbol and its code, as the statements write them (R10, R141) -/

theorem classify_timing (s : State) (d : Ticks) : classify s.timing d.toNat = symbolOf s d := by
  simp only [classify, near_iff]; rfl

theorem code_eq_ofNat (c : Symbol) : c.code = BitVec.ofNat 2 (codeOf c) := by cases c <;> rfl

/-! ### The flags of STATUS (R36) -/

theorem getLsbD_flagBit (i j : Nat) (b : Bool) :
    (flagBit i b).getLsbD j = (b && (decide (i < 32) && decide (i = j))) := by
  cases b with
  | false => exact BitVec.getLsbD_zero
  | true => exact BitVec.getLsbD_twoPow i j

theorem statusWord_getLsbD_cfgOk (s : State) : s.statusWord.getLsbD 4 = s.cfgOk := by
  simp only [State.statusWord, BitVec.getLsbD_or, getLsbD_flagBit]
  simp

theorem statusWord_getLsbD_frameOk (s : State) : s.statusWord.getLsbD 5 = s.frameOk := by
  simp only [State.statusWord, BitVec.getLsbD_or, getLsbD_flagBit]
  simp

/-! ### The two checks and the commands they guard (R140, R180) -/

section Guards

variable {s : State}

theorem ite_cfgOk_of_cfgLegal (h : CfgLegal s) (answer failed : State) :
    (if s.cfgOk then answer else failed) = answer :=
  if_pos ((cfgOk_iff s).mpr h)

theorem ite_cfgOk_of_not_cfgLegal (h : ¬ CfgLegal s) (answer failed : State) :
    (if s.cfgOk then answer else failed) = failed :=
  if_neg (mt (cfgOk_iff s).mp h)

theorem exec_classify (d : Ticks) (s : State) :
    exec (.classify d) s =
      .next (if s.cfgOk then { s with cls := (classify s.timing d.toNat).code } else errored 7 s) := rfl

theorem exec_classify_of_cfgLegal (h : CfgLegal s) (d : Ticks) :
    exec (.classify d) s = .next { s with cls := BitVec.ofNat 2 (codeOf (symbolOf s d)) } := by
  rw [exec_classify, ite_cfgOk_of_cfgLegal h, classify_timing, code_eq_ofNat]

theorem exec_classify_of_not_cfgLegal (h : ¬ CfgLegal s) (d : Ticks) :
    exec (.classify d) s = .next (errored 7 s) := by
  rw [exec_classify, ite_cfgOk_of_not_cfgLegal h]

theorem exec_recon_of_not_cfgLegal (h : ¬ CfgLegal s) : exec .recon s = .next (errored 7 s) :=
  congrArg _ (ite_cfgOk_of_not_cfgLegal h _ _)

theorem exec_enc_of_not_cfgLegal (h : ¬ CfgLegal s) : exec .enc s = .next (errored 7 s) :=
  congrArg _ (ite_cfgOk_of_not_cfgLegal h _ _)

/-- Without a frame RECON fails whatever CFGOK is: both checks raise the same error. -/
theorem exec_recon_of_frameOf_eq_none (h : frameOf s = none) : exec .recon s = .next (errored 7 s) := by
  have hframe : s.frameConfig = none := (frameConfig_eq_frameOf s).trans h
  have hexec : exec .recon s = .next (if s.cfgOk then errored 7 s else errored 7 s) := by
    rw [exec, execRecon, hframe]; rfl
  rw [hexec, ite_self]

theorem exec_val_of_frameOf_eq_none (h : frameOf s = none) : exec .val s = .next (errored 7 s) := by
  have hframe : s.frameConfig = none := (frameConfig_eq_frameOf s).trans h
  rw [exec, execVal, hframe]; rfl

end Guards

/-! ### The obligations -/

/-- Settles O30: under CFGOK the stored code is the symbol's; CLASS writes nothing else. -/
theorem classStoresSymbol : Obligations.ClassStoresSymbol := by
  refine ⟨fun d s h => exec_classify_of_cfgLegal h d, fun d s h => exec_classify_of_not_cfgLegal h d, ?encoding⟩
  case encoding => exact encodedD_of_format (m := .classify) rfl fun _ => rfl

/-- Settles O31, from where the two windows lie. -/
theorem classifierBoundaries : Obligations.ClassifierBoundaries := by
  intro t hok
  exact ⟨classify_of_mark_le (Nat.le_add_right _ _) le_rfl, classify_of_mark_lt hok (Nat.lt_succ_self _),
    classify_of_mark_le le_rfl (Nat.le_add_right _ _), classify_space hok,
    fun htol _ hlo hhi => classify_ne_ambiguous_of_half_gap hok htol hlo hhi,
    fun _ => classify_of_between, fun _ => classify_of_lt_space hok, fun _ => classify_of_mark_lt hok⟩

/-- Settles O32: Mark is tried first, and 2 TOL is at most the gap. -/
theorem windowsShareOnlyTheMidpoint : Obligations.WindowsShareOnlyTheMidpoint := fun t d =>
  ⟨fun hmark _ => (classify_eq_mark_iff t d).mpr hmark, near_both_iff⟩

/-- Settles O33: the flags are their rules' conditions, and each guarded command fails with its check. -/
theorem configurationChecksGuardCommands : Obligations.ConfigurationChecksGuardCommands := by
  intro s
  refine ⟨cfgOk_eq_decide s, ?cfgFlag, frameConfig_eq_frameOf s, ?frameFlag, fun h i hi => ?cfgGuard,
    fun h i hi => ?frameGuard⟩
  case cfgFlag => rw [statusWord_getLsbD_cfgOk, cfgOk_eq_decide]
  case frameFlag => rw [statusWord_getLsbD_frameOk, State.frameOk, frameConfig_eq_frameOf]
  case cfgGuard =>
    cases i with
    | classify d => exact exec_classify_of_not_cfgLegal h d
    | recon => exact exec_recon_of_not_cfgLegal h
    | enc => exact exec_enc_of_not_cfgLegal h
    | _ => simp [Instr.mnemonic] at hi
  case frameGuard =>
    cases i with
    | recon => exact exec_recon_of_frameOf_eq_none h
    | val => exact exec_val_of_frameOf_eq_none h
    | _ => simp [Instr.mnemonic] at hi

end Sys2Proof.Proofs.Classifier

/-! The odometer of the reconstructor (spec/45_reconstructor.md R162): the index vectors still to come after a given one,
and that the odometer shows exactly these. -/

namespace Sys2Proof.Proofs.Odometer

open Sys2Proof Sys2Proof.Machine Sys2Proof.Claims

/-! ### One step of the odometer, case by case -/

section Step

variable {n i : Nat} {ns is is' : List Nat}

/-- While the positions to the right still advance, the index stays. -/
theorem odometerNext_of_some (h : odometerNext ns is = some is') :
    odometerNext (n :: ns) (i :: is) = some (i :: is') := by
  rw [odometerNext, h]

/-- When they are exhausted, the index advances and they start again at zero. -/
theorem odometerNext_of_carry (h : odometerNext ns is = none) (hi : i + 1 < n) :
    odometerNext (n :: ns) (i :: is) = some ((i + 1) :: is.map fun _ => 0) := by
  rw [odometerNext, h]
  exact if_pos hi

/-- At its last index too the odometer is exhausted. -/
theorem odometerNext_of_exhausted (h : odometerNext ns is = none) (hi : ¬ i + 1 < n) :
    odometerNext (n :: ns) (i :: is) = none := by
  rw [odometerNext, h]
  exact if_neg hi

end Step

theorem odometerNext_length {sizes idx idx' : List Nat} (h : odometerNext sizes idx = some idx') :
    idx'.length = idx.length := by
  induction sizes generalizing idx idx' with
  | nil => cases idx <;> cases h
  | cons n ns ih =>
    cases idx with
    | nil => cases h
    | cons i is =>
      cases hnext : odometerNext ns is with
      | some is' =>
        rw [odometerNext_of_some hnext] at h
        cases h
        rw [List.length_cons, List.length_cons, ih hnext]
      | none =>
        by_cases hi : i + 1 < n
        · rw [odometerNext_of_carry hnext hi] at h
          cases h
          rw [List.length_cons, List.length_cons, List.length_map]
        · rw [odometerNext_of_exhausted hnext hi] at h
          cases h

/-! ### The index vectors in order -/

theorem vectors_length (sizes : List Nat) : (vectors sizes).length = sizes.prod := by
  induction sizes with
  | nil => rfl
  | cons n ns ih => simp [vectors, List.length_flatMap, ih]

/-- The vectors whose first index runs through `k` values from `i` on. -/
def blocks (ns : List Nat) (i k : Nat) : List (List Nat) :=
  (List.range' i k).flatMap fun j => (vectors ns).map (j :: ·)

theorem blocks_succ (ns : List Nat) (i k : Nat) :
    blocks ns i (k + 1) = (vectors ns).map (i :: ·) ++ blocks ns (i + 1) k := by
  rw [blocks, List.range'_succ, List.flatMap_cons]
  rfl

theorem vectors_cons (n : Nat) (ns : List Nat) : vectors (n :: ns) = blocks ns 0 n := by
  rw [vectors, List.range_eq_range']
  rfl

/-- The index vectors from `idx` on, `idx` included: those that keep its first index, then the later blocks. -/
def vectorsFrom : List Nat → List Nat → List (List Nat)
  | n :: ns, i :: is => (vectorsFrom ns is).map (i :: ·) ++ blocks ns (i + 1) (n - (i + 1))
  | _, _ => [[]]

/-- From the vector of zeros on there are all of them. -/
theorem vectorsFrom_zeros {sizes : List Nat} (hpos : ∀ n ∈ sizes, 0 < n) :
    vectorsFrom sizes (sizes.map fun _ => 0) = vectors sizes := by
  induction sizes with
  | nil => rfl
  | cons n ns ih =>
    obtain ⟨hn, hns⟩ := List.forall_mem_cons.mp hpos
    obtain ⟨k, rfl⟩ : ∃ k, n = k + 1 := ⟨n - 1, by omega⟩
    rw [List.map_cons, vectorsFrom, ih hns, vectors_cons, blocks_succ]
    rfl

/-- After a vector come those from the odometer's next one on; at an exhausted odometer, none. -/
theorem vectorsFrom_eq_cons {sizes idx : List Nat} (hpos : ∀ n ∈ sizes, 0 < n) (hlen : idx.length = sizes.length) :
    vectorsFrom sizes idx = idx :: ((odometerNext sizes idx).map (vectorsFrom sizes)).getD [] := by
  induction sizes generalizing idx with
  | nil => rw [List.length_eq_zero_iff.mp hlen]; rfl
  | cons n ns ih =>
    cases idx with
    | nil => cases hlen
    | cons i is =>
      obtain ⟨-, hns⟩ := List.forall_mem_cons.mp hpos
      have hlen' : is.length = ns.length := Nat.succ.inj hlen
      rw [vectorsFrom, ih hns hlen']
      cases hnext : odometerNext ns is with
      | some is' => rw [odometerNext_of_some hnext]; rfl
      | none =>
        by_cases hi : i + 1 < n
        · have hzeros : (is.map fun _ => 0) = ns.map fun _ => 0 := by
            rw [List.map_const', List.map_const', hlen']
          have hcount : n - (i + 1) = n - (i + 1 + 1) + 1 := by omega
          rw [odometerNext_of_carry hnext hi, hzeros, hcount, blocks_succ, ← vectorsFrom_zeros hns]
          rfl
        · have hcount : n - (i + 1) = 0 := by omega
          rw [odometerNext_of_exhausted hnext hi, hcount]
          rfl

/-- The odometer shows the vectors from its start on, as many as the fuel allows. -/
theorem odometerRun_eq_take {sizes idx : List Nat} (hpos : ∀ n ∈ sizes, 0 < n) (hlen : idx.length = sizes.length)
    (fuel : Nat) : odometerRun sizes fuel idx = (vectorsFrom sizes idx).take fuel := by
  induction fuel generalizing idx with
  | zero => rfl
  | succ fuel ih =>
    rw [odometerRun, vectorsFrom_eq_cons hpos hlen, List.take_succ_cons]
    cases hnext : odometerNext sizes idx with
    | none => rw [Option.map_none, Option.getD_none, List.take_nil]
    | some idx' => rw [Option.map_some, Option.getD_some, ← ih ((odometerNext_length hnext).trans hlen)]

/-- With fuel for every combination the odometer shows them all and stops by itself. -/
theorem odometerRun_of_pos {sizes : List Nat} (hpos : ∀ n ∈ sizes, 0 < n) {fuel : Nat} (hfuel : sizes.prod ≤ fuel) :
    odometerRun sizes fuel (sizes.map fun _ => 0) = vectors sizes := by
  rw [odometerRun_eq_take hpos (List.length_map _), vectorsFrom_zeros hpos,
    List.take_of_length_le (by rwa [vectors_length])]

/-- A size 0 leaves no combination and no fuel. -/
theorem odometerRun_prod (sizes : List Nat) :
    odometerRun sizes sizes.prod (sizes.map fun _ => 0) = vectors sizes := by
  by_cases hzero : sizes.prod = 0
  · rw [hzero, odometerRun, List.length_eq_zero_iff.mp ((vectors_length sizes).trans hzero)]
  · have hpos : ∀ n ∈ sizes, 0 < n := fun n hn =>
      Nat.pos_of_ne_zero fun h => hzero (List.prod_eq_zero (h ▸ hn))
    exact odometerRun_of_pos hpos le_rfl

/-! ### The obligation -/

/-- Settles O46: what the odometer shows from the zeros on is the list of all vectors, and one more turn shows nothing. -/
theorem odometerVisitsAllInOrder : Obligations.OdometerVisitsAllInOrder := fun sizes =>
  ⟨odometerRun_prod sizes, fun hpos => odometerRun_of_pos hpos (Nat.le_succ _)⟩

end Sys2Proof.Proofs.Odometer

/-! CLASSIFY and the candidates (spec/45_reconstructor.md R152 to R159): the segments of a frame read from left to right, as
the statements read them, and the candidate set of a run. -/

namespace Sys2Proof.Proofs.Segments

open Sys2Proof Sys2Proof.Machine Sys2Proof.Claims Sys2Proof.Proofs.Classifier

/-! ### Segments listed last first: a run at the end is still open (R152) -/

/-- The sum of the run that is still open, if the last segment is one. -/
def openRun : List Segment → Option Nat
  | .run w :: _ => some w
  | _ => none

/-- The segments before the open run. -/
def closedPart : List Segment → List Segment
  | .run _ :: rest => rest
  | segs => segs

/-- The separator an open run stands for. -/
def separator (acc : Option Nat) : List Symbol := acc.toList.map fun _ => .ambiguous

theorem wrongLengths_reverse (segs : List Segment) :
    wrongLengths segs.reverse = wrongLengths (closedPart segs).reverse ++ (openRun segs).toList := by
  rcases segs with _ | ⟨_ | _, _⟩ <;> simp [openRun, closedPart, wrongLengths_append, wrongLengths]

theorem fallbackPattern_reverse (segs : List Segment) :
    fallbackPattern segs.reverse = fallbackPattern (closedPart segs).reverse ++ separator (openRun segs) := by
  rcases segs with _ | ⟨_ | _, _⟩ <;>
    simp [openRun, closedPart, separator, fallbackPattern, Segment.pattern]

section Extend

variable {t : Timing} {d : Nat}

theorem openRun_extend_ambiguous (h : classify t d = .ambiguous) (segs : List Segment) :
    openRun (extendSegments t segs d) = some ((openRun segs).getD 0 + d) := by
  rw [extendSegments_ambiguous h]
  rcases segs with _ | ⟨_ | _, _⟩ <;> simp [openRun]

theorem closedPart_extend_ambiguous (h : classify t d = .ambiguous) (segs : List Segment) :
    closedPart (extendSegments t segs d) = closedPart segs := by
  rw [extendSegments_ambiguous h]
  rcases segs with _ | ⟨_ | _, _⟩ <;> rfl

theorem openRun_extend_classified (h : classify t d ≠ .ambiguous) (segs : List Segment) :
    openRun (extendSegments t segs d) = none := by
  rw [extendSegments_classified h]
  rcases segs with _ | ⟨_ | _, _⟩ <;> rfl

theorem wrongLengths_extend_classified (h : classify t d ≠ .ambiguous) (segs : List Segment) :
    wrongLengths (closedPart (extendSegments t segs d)).reverse = wrongLengths segs.reverse := by
  rw [extendSegments_classified h]
  rcases segs with _ | ⟨_ | _, _⟩ <;> simp [closedPart, wrongLengths_append, wrongLengths]

/-- The bit of a classified duration has the duration's code (R152, R154). -/
theorem mark_or_space (h : classify t d ≠ .ambiguous) :
    (if decide (classify t d = .mark) then Symbol.mark else .space) = classify t d := by
  cases hc : classify t d with
  | ambiguous => exact absurd hc h
  | mark => rfl
  | space => rfl

theorem fallbackPattern_extend_classified (h : classify t d ≠ .ambiguous) (segs : List Segment) :
    fallbackPattern (closedPart (extendSegments t segs d)).reverse
      = fallbackPattern segs.reverse ++ [classify t d] := by
  rw [extendSegments_classified h, ← mark_or_space h]
  rcases segs with _ | ⟨_ | _, _⟩ <;> simp [closedPart, fallbackPattern, Segment.pattern]

end Extend

/-! ### The runs of a frame (R152, R153) -/

section Runs

variable {s : State} {d : Ticks}

theorem runSums_ambiguous (h : symbolOf s d = .ambiguous) (acc : Option Nat) (ds : List Ticks) :
    runSums s acc (d :: ds) = runSums s (some (acc.getD 0 + d.toNat)) ds := if_pos h

theorem runSums_classified (h : symbolOf s d ≠ .ambiguous) (acc : Option Nat) (ds : List Ticks) :
    runSums s acc (d :: ds) = acc.toList ++ runSums s none ds := if_neg h

theorem wrongLengths_foldl (ds : List Ticks) (segs : List Segment) :
    wrongLengths ((ds.map (·.toNat)).foldl (extendSegments s.timing) segs).reverse
      = wrongLengths (closedPart segs).reverse ++ runSums s (openRun segs) ds := by
  induction ds generalizing segs with
  | nil => exact wrongLengths_reverse segs
  | cons d ds ih =>
    rw [List.map_cons, List.foldl_cons, ih]
    by_cases h : symbolOf s d = .ambiguous
    · have hc : classify s.timing d.toNat = .ambiguous := (classify_timing s d).trans h
      rw [closedPart_extend_ambiguous hc, openRun_extend_ambiguous hc, runSums_ambiguous h]
    · have hc : classify s.timing d.toNat ≠ .ambiguous := fun hc => h ((classify_timing s d).symm.trans hc)
      rw [wrongLengths_extend_classified hc, openRun_extend_classified hc, runSums_classified h,
        wrongLengths_reverse, List.append_assoc]

/-- An open run stays a run. -/
theorem runSums_some_ne_nil (w : Nat) (ds : List Ticks) : runSums s (some w) ds ≠ [] := by
  induction ds generalizing w with
  | nil => exact List.cons_ne_nil _ _
  | cons d ds ih =>
    by_cases h : symbolOf s d = .ambiguous
    · rw [runSums_ambiguous h]; exact ih _
    · rw [runSums_classified h]; exact List.cons_ne_nil _ _

end Runs

/-! ### The fallback pattern (R154) -/

section Pattern

variable {c : Symbol} {cs : List Symbol}

/-- Of two ambiguous codes in a row one separator is left. -/
theorem collapse_ambiguous_ambiguous : collapse (.ambiguous :: .ambiguous :: cs) = collapse (.ambiguous :: cs) :=
  if_pos ⟨rfl, rfl⟩

theorem collapse_classified (h : c ≠ .ambiguous) : collapse (c :: cs) = c :: collapse cs :=
  if_neg fun hand => h hand.1

/-- A run ends where a classified code follows. -/
theorem collapse_ambiguous_classified (h : c ≠ .ambiguous) :
    collapse (.ambiguous :: c :: cs) = .ambiguous :: c :: collapse cs := by
  rw [← collapse_classified h]
  exact if_neg fun hand => h (Option.some.inj hand.2)

/-- An ambiguous duration after an open run, or with none open, leaves one separator open. -/
theorem collapse_separator_ambiguous (acc : Option Nat) (w : Nat) :
    collapse (separator acc ++ .ambiguous :: cs) = collapse (separator (some w) ++ cs) := by
  cases acc with
  | none => rfl
  | some v => exact collapse_ambiguous_ambiguous

/-- A classified duration closes what is open. -/
theorem collapse_separator_classified (h : c ≠ .ambiguous) (acc : Option Nat) :
    collapse (separator acc ++ c :: cs) = separator acc ++ c :: collapse cs := by
  cases acc with
  | none => exact collapse_classified h
  | some v => exact collapse_ambiguous_classified h

theorem collapse_separator (acc : Option Nat) : collapse (separator acc) = separator acc := by
  cases acc <;> rfl

theorem collapse_length_le (cs : List Symbol) : (collapse cs).length ≤ cs.length := by
  induction cs with
  | nil => rfl
  | cons c cs ih =>
    rw [collapse]
    split
    case isTrue => exact ih.trans (Nat.le_succ _)
    case isFalse => exact Nat.succ_le_succ ih

theorem fallbackPattern_foldl (t : Timing) (ds : List Nat) (segs : List Segment) :
    fallbackPattern (ds.foldl (extendSegments t) segs).reverse
      = fallbackPattern (closedPart segs).reverse ++ collapse (separator (openRun segs) ++ ds.map (classify t)) := by
  induction ds generalizing segs with
  | nil => rw [List.map_nil, List.append_nil, collapse_separator]; exact fallbackPattern_reverse segs
  | cons d ds ih =>
    rw [List.foldl_cons, ih, List.map_cons]
    by_cases h : classify t d = .ambiguous
    · rw [closedPart_extend_ambiguous h, openRun_extend_ambiguous h, h, collapse_separator_ambiguous]
    · rw [fallbackPattern_extend_classified h, openRun_extend_classified h, collapse_separator_classified h,
        fallbackPattern_reverse, List.append_assoc, List.append_assoc]
      rfl

/-- The pattern has one code for each classified duration and one for each run (R154). -/
theorem collapse_length (s : State) (acc : Option Nat) (ds : List Ticks) :
    (collapse (separator acc ++ ds.map (symbolOf s))).length
      = (ds.countP fun d => decide (symbolOf s d ≠ .ambiguous)) + (runSums s acc ds).length := by
  induction ds generalizing acc with
  | nil => cases acc <;> rfl
  | cons d ds ih =>
    rw [List.map_cons]
    by_cases h : symbolOf s d = .ambiguous
    · rw [runSums_ambiguous h, h, collapse_separator_ambiguous, ih, List.countP_cons_of_neg (by simp [h])]
    · have hrest := ih none
      rw [separator, Option.toList_none, List.map_nil, List.nil_append] at hrest
      rw [runSums_classified h, collapse_separator_classified h, List.countP_cons_of_pos (by simp [h]),
        List.length_append, List.length_append, List.length_cons, hrest, separator, List.length_map]
      omega

end Pattern

/-! ### What CLASSIFY finds in DBUF, as the statements write it -/

/-- The segments of the durations in DBUF. -/
def segmentsOf (s : State) : List Segment := segments s.timing (s.dbuf.map (·.toNat))

theorem wrongLengths_segmentsOf (s : State) : wrongLengths (segmentsOf s) = runSums s none s.dbuf :=
  wrongLengths_foldl s.dbuf []

theorem fallbackPattern_segmentsOf (s : State) : fallbackPattern (segmentsOf s) = collapse (s.dbuf.map (symbolOf s)) := by
  have hsymbols : (s.dbuf.map (·.toNat)).map (classify s.timing) = s.dbuf.map (symbolOf s) := by
    rw [List.map_map]; exact List.map_congr_left fun d _ => classify_timing s d
  rw [← hsymbols]
  exact fallbackPattern_foldl s.timing (s.dbuf.map (·.toNat)) []

theorem classifiedCount_dbuf (s : State) : classifiedCount s.timing (s.dbuf.map (·.toNat)) = classifiedIn s := by
  rw [classifiedCount, List.countP_map]
  exact List.countP_congr fun d _ => by simp only [Function.comp, classify_timing]

theorem pattern_length (s : State) :
    (collapse (s.dbuf.map (symbolOf s))).length = classifiedIn s + (runSums s none s.dbuf).length :=
  collapse_length s none s.dbuf

theorem pattern_length_le (s : State) : (collapse (s.dbuf.map (symbolOf s))).length ≤ s.dbuf.length :=
  (collapse_length_le _).trans (List.length_map _).le

/-- R156's condition on the counts is that every duration is ambiguous and there is one. -/
theorem allAmbiguous_iff (s : State) : AllAmbiguous s ↔ classifiedIn s = 0 ∧ 1 ≤ (runSums s none s.dbuf).length := by
  have hcount : classifiedIn s = 0 ↔ ∀ d ∈ s.dbuf, symbolOf s d = .ambiguous := by simp [classifiedIn]
  rw [AllAmbiguous, hcount, and_comm]
  refine and_congr_right fun hall => ?_
  cases hbuf : s.dbuf with
  | nil => simp [runSums]
  | cons d ds =>
    have hd : symbolOf s d = .ambiguous := hall d (by rw [hbuf]; exact List.mem_cons_self)
    rw [runSums_ambiguous hd]
    exact iff_of_true (List.cons_ne_nil _ _) (List.length_pos_iff.mpr (runSums_some_ne_nil _ _))

/-! ### The candidates (R158, R159) -/

theorem mem_allCandidates_iff {c : Bits} : c ∈ allCandidates ↔ 1 ≤ c.length ∧ c.length ≤ 3 := by
  simp only [allCandidates, Config.candMaxLen, List.mem_flatMap, List.mem_map, List.mem_range]
  constructor
  · rintro ⟨k, hk, v, -, rfl⟩
    rw [bitsOf_length]
    omega
  · rintro ⟨hlo, hhi⟩
    have hlen : c.length - 1 + 1 = c.length := Nat.sub_add_cancel hlo
    refine ⟨c.length - 1, by omega, bitsVal c, ?_⟩
    rw [hlen]
    exact ⟨bitsVal_lt c, bitsOf_bitsVal c⟩

theorem mem_candidates_iff {t : Timing} {w : Nat} {c : Bits} :
    c ∈ candidates t w ↔ 1 ≤ c.length ∧ c.length ≤ 3
      ∧ ((w : Int) - (c.count true * t.mark + c.count false * t.space : Nat)).natAbs ≤ t.tol := by
  rw [candidates, List.mem_filter, mem_allCandidates_iff, near_iff, nominal_eq_count, and_assoc]

/-- Shorter strings come first, and strings of one length by ascending value. -/
theorem allCandidates_pairwise :
    allCandidates.Pairwise fun a b => a.length < b.length ∨ (a.length = b.length ∧ bitsVal a < bitsVal b) := by
  rw [allCandidates, List.pairwise_flatMap]
  refine ⟨fun k _ => ?sameLength, ?shorterFirst⟩
  case sameLength =>
    rw [List.pairwise_map]
    refine List.pairwise_lt_range.imp_of_mem fun {v u} hv hu hlt => .inr ⟨by simp, ?_⟩
    rwa [bitsVal_bitsOf, bitsVal_bitsOf, Nat.mod_eq_of_lt (List.mem_range.mp hv), Nat.mod_eq_of_lt (List.mem_range.mp hu)]
  case shorterFirst =>
    refine List.pairwise_lt_range.imp fun {j k} hlt a ha b hb => .inl ?_
    obtain ⟨v, -, rfl⟩ := List.mem_map.mp ha
    obtain ⟨u, -, rfl⟩ := List.mem_map.mp hb
    rw [bitsOf_length, bitsOf_length]
    omega

theorem allCandidates_length : allCandidates.length = 14 := by rw [allCandidates_eq]; rfl

/-- Settles O44: the candidates are the strings of R159's list that pass its test, in the list's order. -/
theorem candidatesAreThoseWithinTolerance : Obligations.CandidatesAreThoseWithinTolerance := fun _ _ =>
  ⟨fun _ => mem_candidates_iff, allCandidates_pairwise.filter _,
    (List.length_filter_le _ _).trans allCandidates_length.le⟩

end Sys2Proof.Proofs.Segments

/-! The RECON command (spec/45_reconstructor.md R151, R156 to R169): the search over a list of combinations, ENUMERATE as that
search over the statements' list, what RECON does to the state on each of its ways, and the statements. -/

namespace Sys2Proof.Proofs.Reconstructor

open Sys2Proof Sys2Proof.Machine Sys2Proof.Claims
open Sys2Proof.Proofs.Control Sys2Proof.Proofs.RegisterAccess Sys2Proof.Proofs.Classifier
open Sys2Proof.Proofs.Odometer Sys2Proof.Proofs.Segments

/-! ### The search over a list of strings (R163 to R165) -/

/-- The strings are visited in order, up to the first that is accepted. -/
def searchList (f : Frame) : List Bits → Search → Search
  | [], a => a
  | b :: bs, a => if (a.visit f b).found.isSome then a.visit f b else searchList f bs (a.visit f b)

/-- The strings are all visited, one after the other. -/
def visitAll (f : Frame) (bs : List Bits) (a : Search) : Search := bs.foldl (fun a b => a.visit f b) a

section SearchList

variable {f : Frame} {b : Bits} {a : Search}

/-- A string that passes is accepted with its verdict. -/
theorem visit_of_passes (h : Passes f b) (a : Search) :
    a.visit f b = ⟨a.tried + 1, (validate f b).vstat, (validate f b).csum, some b⟩ := by
  rw [visit_of_length_eq h.1, if_pos h.2]

/-- A string that does not pass leaves the search without a result. -/
theorem visit_found_of_not_passes (h : ¬ Passes f b) (ha : a.found = none) : (a.visit f b).found = none := by
  by_cases hlen : b.length = f.length
  · rw [visit_of_length_eq hlen]
    exact if_neg fun hpass => h ⟨hlen, hpass⟩
  · rw [visit_of_length_ne hlen]
    exact ha

theorem searchList_of_passes (h : Passes f b) (bs : List Bits) (a : Search) :
    searchList f (b :: bs) a = a.visit f b := by
  rw [searchList, visit_of_passes h]
  rfl

/-- Strings that do not pass are all visited, and the search goes on after them. -/
theorem searchList_append {pre : List Bits} (hpre : ∀ b ∈ pre, ¬ Passes f b) (ha : a.found = none) (bs : List Bits) :
    searchList f (pre ++ bs) a = searchList f bs (visitAll f pre a) := by
  induction pre generalizing a with
  | nil => rfl
  | cons b pre ih =>
    obtain ⟨hb, hrest⟩ := List.forall_mem_cons.mp hpre
    have hfound : (a.visit f b).found = none := visit_found_of_not_passes hb ha
    rw [List.cons_append, searchList, hfound]
    exact ih hrest hfound

theorem visitAll_tried (bs : List Bits) (a : Search) : (visitAll f bs a).tried = a.tried + bs.length := by
  induction bs generalizing a with
  | nil => rfl
  | cons b bs ih =>
    refine (ih (a.visit f b)).trans ?_
    rw [visit_tried, List.length_cons]
    omega

theorem visitAll_found {bs : List Bits} (h : ∀ b ∈ bs, ¬ Passes f b) (ha : a.found = none) :
    (visitAll f bs a).found = none := by
  induction bs generalizing a with
  | nil => exact ha
  | cons b bs ih =>
    obtain ⟨hb, hrest⟩ := List.forall_mem_cons.mp h
    exact ih hrest (visit_found_of_not_passes hb ha)

theorem lastVerdict_append_of_length_eq (h : b.length = f.length) (bs : List Bits) :
    lastVerdict f (bs ++ [b]) = ((validate f b).vstat, (validate f b).csum) := by
  simp [lastVerdict, List.filter_append, h]

theorem lastVerdict_append_of_length_ne (h : b.length ≠ f.length) (bs : List Bits) :
    lastVerdict f (bs ++ [b]) = lastVerdict f bs := by
  simp [lastVerdict, List.filter_append, h]

/-- After the strings VSTAT and CSUM are those of the last full-length one (R164). -/
theorem visitAll_verdict (f : Frame) (bs : List Bits) :
    ((visitAll f bs Search.start).vstat, (visitAll f bs Search.start).csum) = lastVerdict f bs := by
  induction bs using List.reverseRecOn with
  | nil => rfl
  | append_singleton bs b ih =>
    have hlast : visitAll f (bs ++ [b]) Search.start = (visitAll f bs Search.start).visit f b := List.foldl_concat ..
    rw [hlast]
    by_cases hlen : b.length = f.length
    · rw [visit_of_length_eq hlen, lastVerdict_append_of_length_eq hlen]
    · rw [visit_of_length_ne hlen, lastVerdict_append_of_length_ne hlen]
      exact ih

/-- The first string that passes, at position k, ends the search. -/
theorem searchList_of_first {bs : List Bits} {k : Nat} (hk : bs[k]? = some b) (hpass : Passes f b)
    (hbefore : ∀ b' ∈ bs.take k, ¬ Passes f b') :
    searchList f bs Search.start = ⟨k + 1, (validate f b).vstat, (validate f b).csum, some b⟩ := by
  obtain ⟨hlt, rfl⟩ := List.getElem?_eq_some_iff.mp hk
  have hsplit : bs = bs.take k ++ bs[k] :: bs.drop (k + 1) := by
    rw [← List.drop_eq_getElem_cons hlt, List.take_append_drop]
  have htried : (visitAll f (bs.take k) Search.start).tried = k := by
    rw [visitAll_tried, List.length_take_of_le hlt.le]
    exact Nat.zero_add k
  calc searchList f bs Search.start
      = searchList f (bs[k] :: bs.drop (k + 1)) (visitAll f (bs.take k) Search.start) := by
        rw [← searchList_append hbefore rfl, ← hsplit]
    _ = _ := by rw [searchList_of_passes hpass, visit_of_passes hpass, htried]

/-- Where none passes, the search visits them all. -/
theorem searchList_of_none {bs : List Bits} (h : ∀ b ∈ bs, ¬ Passes f b) :
    searchList f bs Search.start = visitAll f bs Search.start := by
  have hall := searchList_append h (a := Search.start) rfl []
  rwa [List.append_nil] at hall

end SearchList

/-! ### ENUMERATE is the search over the combinations (R160, R162, R164) -/

/-- The candidate sets of a frame's runs. -/
def candidateSets (t : Timing) (segs : List Segment) : List (List Bits) := (wrongLengths segs).map (candidates t)

/-- ENUMERATE searches the strings of the vectors the odometer shows. -/
theorem enumerate_eq_searchList (f : Frame) (segs : List Segment) (sets : List (List Bits)) (fuel : Nat)
    (idx : List Nat) (a : Search) :
    enumerate f segs sets fuel idx a
      = searchList f ((odometerRun (sets.map List.length) fuel idx).map fun v => splice segs (chosen sets v)) a := by
  induction fuel generalizing idx a with
  | zero => rfl
  | succ fuel ih =>
    rw [odometerRun, List.map_cons, searchList]
    rcases enumerate_succ_cases f segs sets fuel idx a with
      ⟨hfound, heq⟩ | ⟨hfound, hnext, heq⟩ | ⟨idx', hfound, hnext, heq⟩
    · rw [heq, if_pos (Option.isSome_iff_ne_none.mpr hfound)]
    · rw [heq, hnext, if_neg (by simp [hfound])]; rfl
    · rw [heq, hnext, if_neg (by simp [hfound]), ih]

theorem map_getD_range (cs : List Bits) : ((List.range cs.length).map fun i => cs.getD i []) = cs := by
  refine List.ext_getElem (by simp) fun i _ hi => ?_
  simp [hi]

/-- The strings of all vectors in order are the combinations, the earliest run varying slowest. -/
theorem map_splice_vectors (t : Timing) (segs : List Segment) :
    ((vectors ((candidateSets t segs).map List.length)).map fun v => splice segs (chosen (candidateSets t segs) v))
      = combinations t segs := by
  induction segs with
  | nil => rfl
  | cons seg rest ih =>
    cases seg with
    | chunk bits =>
      rw [combinations, ← ih, List.map_map]
      rfl
    | run w =>
      have hblock : ∀ i, ((vectors ((candidateSets t rest).map List.length)).map (i :: ·)).map
            (fun v => splice (.run w :: rest) (chosen (candidateSets t (.run w :: rest)) v))
          = (combinations t rest).map ((candidates t w).getD i [] ++ ·) := fun i => by
        rw [← ih, List.map_map, List.map_map]
        rfl
      calc _ = (List.range (candidates t w).length).flatMap fun i =>
              (combinations t rest).map ((candidates t w).getD i [] ++ ·) := by
            rw [← funext hblock]
            exact List.map_flatMap
        _ = ((List.range (candidates t w).length).map fun i => (candidates t w).getD i []).flatMap fun c =>
              (combinations t rest).map (c ++ ·) := by
            rw [List.flatMap_map]
        _ = combinations t (.run w :: rest) := by rw [map_getD_range, combinations]

/-- With the product as fuel ENUMERATE searches all combinations (R162). -/
theorem enumerate_eq_combinations (t : Timing) (f : Frame) (segs : List Segment) (a : Search) :
    enumerate f segs (candidateSets t segs) (productSize (candidateSets t segs)) ((candidateSets t segs).map fun _ => 0) a
      = searchList f (combinations t segs) a := by
  have hzeros : ((candidateSets t segs).map fun _ => 0) = ((candidateSets t segs).map List.length).map fun _ => 0 := by
    rw [List.map_map]; rfl
  rw [enumerate_eq_searchList, hzeros, productSize_eq_prod, odometerRun_prod, map_splice_vectors]

theorem productSize_segmentsOf (s : State) : productSize (candidateSets s.timing (segmentsOf s)) = productOf s := by
  rw [productSize_eq_prod, candidateSets, wrongLengths_segmentsOf, List.map_map]
  rfl

theorem attempts_length (s : State) : (attempts s).length = productOf s := by
  have hvectors := congrArg List.length (map_splice_vectors s.timing (segmentsOf s))
  rw [List.length_map, vectors_length, ← productSize_eq_prod, productSize_segmentsOf] at hvectors
  exact hvectors.symm

/-! ### The report, on each of RECON's ways (R156, R157, R161, R165, R166) -/

section Report

variable {s : State}

/-- The report of a frame whose reconstruction ends before the enumeration, all outputs cleared (R155). -/
def clearedReport (s : State) (result : ReconResult) : ReconReport :=
  classifyPhase s.timing (s.dbuf.map (·.toNat)) (segmentsOf s) result

/-- The same with the product size written (R160). -/
def countedReport (s : State) : ReconReport := { clearedReport s .failCombo with ncomb := min (productOf s) ncombMax }

/-- Whatever the result, CLASSIFY's counts and pattern are in the report (R153, R154). -/
theorem reconReport_classify (f : Frame) (s : State) :
    (reconReport f s).fb = collapse (s.dbuf.map (symbolOf s)) ∧ (reconReport f s).ncls = classifiedIn s
      ∧ (reconReport f s).nruns = (runSums s none s.dbuf).length := by
  rw [← fallbackPattern_segmentsOf, ← wrongLengths_segmentsOf, ← classifiedCount_dbuf]
  exact reconstruct_classify s.timing f s.minCls.toNat s.maxComb.toNat (s.dbuf.map (·.toNat))

/-- R156's condition as the model tests it. -/
theorem classify_counts_iff (s : State) :
    classifiedCount s.timing (s.dbuf.map (·.toNat)) = 0 ∧ 1 ≤ (wrongLengths (segmentsOf s)).length ↔ AllAmbiguous s := by
  rw [classifiedCount_dbuf, wrongLengths_segmentsOf, allAmbiguous_iff]

/-- R157's condition as the model tests it. -/
theorem any_rangeBound_iff (s : State) :
    (wrongLengths (segmentsOf s)).any (fun w => decide (rangeBound s.timing < w)) = true ↔ RunTooLong s := by
  simp only [wrongLengths_segmentsOf, List.any_eq_true, decide_eq_true_iff]
  rfl

theorem reconReport_of_allAmbiguous (f : Frame) (h : AllAmbiguous s) :
    reconReport f s = clearedReport s .failAllAmbig :=
  if_pos ((classify_counts_iff s).mpr h)

theorem reconReport_of_runTooLong (f : Frame) (h : ¬ AllAmbiguous s) (hlong : RunTooLong s) :
    reconReport f s = clearedReport s .failRange :=
  (if_neg (mt (classify_counts_iff s).mp h)).trans (if_pos ((any_rangeBound_iff s).mpr hlong))

/-- Past the two checks the product decides whether to enumerate. -/
theorem reconReport_of_short_runs (f : Frame) (h : ¬ AllAmbiguous s) (hshort : ¬ RunTooLong s) :
    reconReport f s =
      if s.maxComb.toNat < productOf s then countedReport s
      else finishPhase s.minCls.toNat (countedReport s) (searchList f (attempts s) Search.start) := by
  have hsearch := enumerate_eq_combinations s.timing f (segmentsOf s) Search.start
  rw [productSize_segmentsOf] at hsearch
  rw [attempts, ← segmentsOf, ← hsearch, countedReport, ← productSize_segmentsOf]
  exact (if_neg (mt (classify_counts_iff s).mp h)).trans (if_neg (mt (any_rangeBound_iff s).mp hshort))

theorem reconReport_of_enumerates (f : Frame) (h : Enumerates s) :
    reconReport f s = finishPhase s.minCls.toNat (countedReport s) (searchList f (attempts s) Search.start) := by
  obtain ⟨-, hamb, hshort, hprod⟩ := h
  rw [reconReport_of_short_runs f hamb hshort, if_neg (Nat.not_lt_of_le hprod)]

end Report

/-! ### FINISH (R165, R166) -/

section Finish

variable {minCls : Nat} {r : ReconReport} {a : Search}

/-- The report of an accepted string (R165). -/
theorem finishPhase_of_found {b : Bits} (h : a.found = some b) :
    finishPhase minCls r a =
      { r with ntried := a.tried, vstat := a.vstat, csum := a.csum, bits := b, result := .ok } := by
  rw [finishPhase, h]
  rfl

/-- The report where none was accepted (R166). -/
theorem finishPhase_of_not_found (h : a.found = none) :
    finishPhase minCls r a =
      { r with
        ntried := a.tried, vstat := a.vstat, csum := a.csum, bits := []
        result := if minCls ≤ r.ncls then .unvalidated else .failFew } := by
  rw [finishPhase, h]
  rfl

end Finish

/-! ### What RECON leaves in the state (R34, R169) -/

/-- The state with a report written and DONE set. -/
def reported (r : ReconReport) (s : State) : State := complete (writeReport r s)

section Reported

variable {s : State} {r : ReconReport}

theorem exec_recon_of_legal {f : Frame} (hcfg : CfgLegal s) (hframe : frameOf s = some f) :
    exec .recon s = .next (reported (reconReport f s) s) := by
  have hconfig : s.frameConfig = some f := (frameConfig_eq_frameOf s).trans hframe
  have hexec : exec .recon s = .next (if s.cfgOk then reported (reconReport f s) s else raiseError .cfg s) := by
    rw [exec, execRecon, hconfig]
    rfl
  rw [hexec, ite_cfgOk_of_cfgLegal hcfg]

@[simp] theorem reported_rres (r : ReconReport) (s : State) : (reported r s).rres = r.result.code := rfl
@[simp] theorem reported_fb (r : ReconReport) (s : State) : (reported r s).fb = r.fb := rfl
@[simp] theorem reported_vstat (r : ReconReport) (s : State) : (reported r s).vstat = r.vstat := rfl
@[simp] theorem reported_csum (r : ReconReport) (s : State) : (reported r s).csum = r.csum := rfl
@[simp] theorem reported_ncomb (r : ReconReport) (s : State) : (reported r s).ncomb = BitVec.ofNat 24 r.ncomb := rfl
@[simp] theorem reported_ntried (r : ReconReport) (s : State) : (reported r s).ntried = BitVec.ofNat 24 r.ntried := rfl
@[simp] theorem reported_bsLen (r : ReconReport) (s : State) :
    (reported r s).bsLen = BitVec.ofNat 6 r.bits.length := rfl

/-- A count below the range of its field is read back from it. -/
theorem toNat_ofNat_of_lt {n x : Nat} (h : x < 2 ^ n) : (BitVec.ofNat n x).toNat = x := by
  rw [BitVec.toNat_ofNat, Nat.mod_eq_of_lt h]

theorem toNat_reported_ncls (h : r.ncls < 2 ^ 7) (s : State) : (reported r s).ncls.toNat = r.ncls := toNat_ofNat_of_lt h

theorem toNat_reported_nruns (h : r.nruns < 2 ^ 7) (s : State) : (reported r s).nruns.toNat = r.nruns :=
  toNat_ofNat_of_lt h

theorem toNat_reported_ncomb (h : r.ncomb < 2 ^ 24) (s : State) : (reported r s).ncomb.toNat = r.ncomb :=
  toNat_ofNat_of_lt h

theorem toNat_reported_ntried (h : r.ntried < 2 ^ 24) (s : State) : (reported r s).ntried.toNat = r.ntried :=
  toNat_ofNat_of_lt h

/-- A string that fits BS is read back from it as a number (R34). -/
theorem bsvOf_reported (h : r.bits.length ≤ 40) (s : State) : bsvOf (reported r s) = bitsVal r.bits := by
  have hlt : bitsVal r.bits < 2 ^ 40 := (bitsVal_lt r.bits).trans_le (Nat.pow_le_pow_right two_pos h)
  have hfields : bsvOf (reported r s)
      = (BitVec.ofNat 8 (bitsVal r.bits / 2 ^ 32)).toNat * 2 ^ 32 + (BitVec.ofNat 32 (bitsVal r.bits)).toNat := rfl
  rw [hfields, BitVec.toNat_ofNat, BitVec.toNat_ofNat]
  omega

/-- A string that fits BS is read back from it (R34). -/
theorem bsBits_reported (h : r.bits.length ≤ 40) (s : State) : bsBits (reported r s) = r.bits := by
  have hlen : (reported r s).bsLen.toNat = r.bits.length :=
    toNat_ofNat_of_lt (h.trans_lt (by decide))
  rw [bsBits, stringOf, hlen, bsvOf_reported h, ← bitsOf_eq_map, bitsOf_bitsVal]

/-- Without an accepted string BS is empty (R155). -/
theorem reported_bs_of_nil (h : r.bits = []) (s : State) :
    (reported r s).bsLo = 0 ∧ (reported r s).bsHi = 0 ∧ (reported r s).bsLen = 0 := by
  simp [reported, writeReport, packBits, h]

/-- A report that ends before the enumeration leaves the outputs cleared (R155). -/
theorem outputsCleared_reported (hbits : r.bits = []) (hvstat : r.vstat = 0) (hcsum : r.csum = 0)
    (htried : r.ntried = 0) (s : State) : OutputsCleared (reported r s) := by
  obtain ⟨hlo, hhi, hlen⟩ := reported_bs_of_nil hbits s
  refine ⟨hlo, hhi, hlen, hvstat, hcsum, ?_⟩
  rw [reported_ntried, htried]
  rfl

end Reported

/-! ### The obligations -/

/-- Settles O40: each of the two checks raises ERR_CFG by itself. -/
theorem reconNeedsConfiguration : Obligations.ReconNeedsConfiguration := by
  refine ⟨fun s h => ?guarded, encodedN_of_format_none Laws.EncodedWord.recon rfl⟩
  by_cases hcfg : CfgLegal s
  · have hframe : frameOf s = none := Option.not_isSome_iff_eq_none.mp fun hf => h ⟨hcfg, hf⟩
    exact exec_recon_of_frameOf_eq_none hframe
  · exact exec_recon_of_not_cfgLegal hcfg

/-- Settles O42: CLASSIFY's part of the report does not depend on the result, and the counts fit their 7 bits because DBUF
is not longer than N_DUR. -/
theorem reconWritesFallbackPattern : Obligations.ReconWritesFallbackPattern := by
  rintro s f ⟨⟨-, hdepth⟩, hdbuf, -⟩ hcfg hframe
  obtain ⟨hfb, hncls, hnruns⟩ := reconReport_classify f s
  have hsum := pattern_length s
  have hle := pattern_length_le s
  have hncls7 : (reported (reconReport f s) s).ncls.toNat = (reconReport f s).ncls :=
    toNat_reported_ncls (by omega) s
  have hnruns7 : (reported (reconReport f s) s).nruns.toNat = (reconReport f s).nruns :=
    toNat_reported_nruns (by omega) s
  refine ⟨_, exec_recon_of_legal hcfg hframe, ?_⟩
  rw [hncls7, hnruns7, reported_fb, hfb, hncls, hnruns]
  exact ⟨rfl, rfl, rfl, hsum, hle⟩

/-- Settles O43: each failing check ends with the report of CLASSIFY, the last one with the product size in it. -/
theorem reconFailsFast : Obligations.ReconFailsFast := by
  intro s f hcfg hframe
  refine ⟨_, exec_recon_of_legal hcfg hframe, fun hamb => ?ambiguous, fun hamb hlong => ?range,
    fun hamb hshort hprod => ?combinations⟩
  case ambiguous =>
    rw [reconReport_of_allAmbiguous f hamb]
    exact ⟨rfl, rfl, outputsCleared_reported rfl rfl rfl rfl s⟩
  case range =>
    rw [reconReport_of_runTooLong f hamb hlong]
    exact ⟨rfl, rfl, outputsCleared_reported rfl rfl rfl rfl s⟩
  case combinations =>
    have hsaturated : min (productOf s) ncombMax < 2 ^ 24 := (Nat.min_le_right _ _).trans_lt (by decide)
    rw [reconReport_of_short_runs f hamb hshort, if_pos hprod]
    exact ⟨rfl, toNat_reported_ncomb hsaturated s, outputsCleared_reported rfl rfl rfl rfl s⟩

/-- Settles O47: the enumeration is the search over the list of combinations, which ends at the first that passes or visits
them all; NTRIED and NCOMB fit their fields because the product is at most MAXCOMB. -/
theorem reconFindsFirstCombination : Obligations.ReconFindsFirstCombination := by
  intro s f henum hframe
  have ⟨hcfg, _, _, hprod⟩ := henum
  have hlen : (attempts s).length < 2 ^ 24 := (attempts_length s).trans_lt (hprod.trans_lt s.maxComb.isLt)
  obtain ⟨hflen, -, hmax⟩ := frameConfig_length ((frameConfig_eq_frameOf s).trans hframe)
  refine ⟨_, exec_recon_of_legal hcfg hframe, ?count, fun k b hk hpass hbefore => ?first, fun hnone => ?exhausted⟩
  all_goals rw [reconReport_of_enumerates f henum]
  case count =>
    have hexact : min (productOf s) ncombMax = (attempts s).length := by
      rw [← attempts_length]; exact Nat.min_eq_left (Nat.le_pred_of_lt hlen)
    exact (toNat_reported_ncomb (hexact.trans_lt hlen) s).trans hexact
  case first =>
    obtain ⟨hlt, -⟩ := List.getElem?_eq_some_iff.mp hk
    have hfits : b.length ≤ 40 := hpass.1.trans_le hmax
    have hbsLen : BitVec.ofNat 6 b.length = s.frameLen := by
      rw [hpass.1, hflen, BitVec.ofNat_toNat, BitVec.setWidth_eq]
    rw [searchList_of_first hk hpass hbefore, finishPhase_of_found rfl]
    exact ⟨rfl, hbsLen, bsvOf_reported hfits s, bsBits_reported hfits s,
      toNat_reported_ntried (Nat.lt_of_le_of_lt hlt hlen) s, rfl, rfl⟩
  case exhausted =>
    have htried : (visitAll f (attempts s) Search.start).tried = (attempts s).length :=
      (visitAll_tried _ _).trans (Nat.zero_add _)
    have hcounted : (countedReport s).ncls = classifiedIn s := classifiedCount_dbuf s
    rw [searchList_of_none hnone, finishPhase_of_not_found (visitAll_found hnone rfl), hcounted]
    obtain ⟨hlo, hhi, hbsLen⟩ := reported_bs_of_nil (r := { countedReport s with bits := [] }) rfl s
    refine ⟨?result, hlo, hhi, hbsLen, (toNat_reported_ntried (htried.trans_lt hlen) s).trans htried,
      visitAll_verdict f (attempts s)⟩
    case result => rw [reported_rres]; split <;> rfl

end Sys2Proof.Proofs.Reconstructor

/-! The protocol validator (spec/46_validator.md R180 to R185): BS as the statements read it, mismatch counts as Hamming
distances, bytes by position, the verdicts of the two checks in those numbers, and their statements. -/

namespace Sys2Proof.Proofs.Validator

open Sys2Proof Sys2Proof.Machine Sys2Proof.Claims
open Sys2Proof.Proofs.Control Sys2Proof.Proofs.RegisterAccess Sys2Proof.Proofs.Classifier Sys2Proof.Proofs.Reconstructor

/-! ### VAL (R185) -/

theorem bitString_eq_bsBits (s : State) : s.bitString = bsBits s := bitsOf_eq_map s.bsLen.toNat s.bsv

/-- With a legal frame configuration VAL writes the verdict's two words and completes, whatever the verdict is. -/
theorem exec_val_of_frameOf_eq_some {s : State} {f : Frame} (h : frameOf s = some f) :
    exec .val s = .next { s with
      vstat := (validate f (bsBits s)).vstat, csum := (validate f (bsBits s)).csum, done := true } := by
  have hframe : s.frameConfig = some f := (frameConfig_eq_frameOf s).trans h
  rw [exec, execVal, hframe, ← bitString_eq_bsBits]
  rfl

/-! ### The mismatches of a half (R183) -/

/-- Two bytes given by position differ at as many positions as their exclusive or holds. -/
theorem mismatches_map (f g : Nat → Bool) (l : List Nat) :
    mismatches (l.map f) (l.map g) = (l.filter fun i => f i != g i).length := by
  rw [mismatches, List.zipWith_map, List.zipWith_self, List.count_eq_countP, List.countP_map,
    List.countP_eq_length_filter]
  congr 2
  funext i
  exact beq_true _

/-- The mismatches of a half inside the string are the Hamming distance of its two bytes. -/
theorem halfMismatches_eq_hamming {b : Bits} {a : Nat} (h : a + 16 ≤ b.length) : halfMismatches b a = hamming b a := by
  rw [halfMismatches, slice_eq_map b a 8 (by omega), slice_eq_map b (a + 8) 8 (by omega), mismatches_map]
  rfl

theorem hamming_le (b : Bits) (a : Nat) : hamming b a ≤ 8 := List.length_filter_le _ _

theorem halfPasses_iff (mm : Nat) : halfPasses mm = true ↔ mm = 0 ∨ mm = 8 := by simp [halfPasses]

/-! ### The verdict on a NEC string (R181, R183) -/

section Nec

variable {b : Bits}

/-- A string of 16 bits is one half: MM1 is 0 and the second half is not asked for. -/
theorem validate_nec_16 (h : b.length = 16) :
    validate ⟨.nec, 16⟩ b = ⟨vstatOf (hamming b 0) 0 (halfPasses (hamming b 0)), 0, halfPasses (hamming b 0)⟩ := by
  rw [← halfMismatches_eq_hamming (by omega), validate, if_pos h]
  simp [necCheck]

/-- A string of 32 bits passes when both of its halves do. -/
theorem validate_nec_32 (h : b.length = 32) :
    validate ⟨.nec, 32⟩ b =
      ⟨vstatOf (hamming b 0) (hamming b 16) (halfPasses (hamming b 0) && halfPasses (hamming b 16)), 0,
        halfPasses (hamming b 0) && halfPasses (hamming b 16)⟩ := by
  rw [← halfMismatches_eq_hamming (by omega), ← halfMismatches_eq_hamming (by omega), validate, if_pos h]
  simp [necCheck]

end Nec

/-! ### The bytes of a DHT22 string (R64, R182) -/

/-- The value of a string given by position: the first position has the greatest weight (R8). -/
theorem bitsVal_map_range (n : Nat) (f : Nat → Bool) :
    bitsVal ((List.range n).map f) = ((List.range n).map fun i => (f i).toNat * 2 ^ (n - 1 - i)).sum := by
  induction n generalizing f with
  | zero => rfl
  | succ n ih =>
    rw [List.range_succ_eq_map, List.map_cons, List.map_map, bitsVal_cons, ih]
    simp [Function.comp_def, Nat.sub_sub, Nat.add_comm 1]

theorem bitsVal_slice_byte {b : Bits} {k : Nat} (h : 8 * k + 8 ≤ b.length) :
    bitsVal (slice b (8 * k) (8 * k + 8)) = byteAt b k := by
  rw [slice_eq_map b (8 * k) 8 h, bitsVal_map_range]
  rfl

theorem toNat_dhtByte {b : Bits} {k : Nat} (h : 8 * k + 8 ≤ b.length) : (dhtByte b k).toNat = byteAt b k := by
  have hlt : bitsVal (slice b (8 * k) (8 * k + 8)) < 2 ^ 8 := by
    refine (bitsVal_lt _).trans_le (Nat.pow_le_pow_right two_pos ?_)
    simp [slice]
  rw [dhtByte, toNat_ofNat_of_lt hlt, bitsVal_slice_byte h]

/-- The computed checksum is the sum of the first four bytes modulo 256. -/
theorem toNat_computed {b : Bits} (h : b.length = 40) :
    (dhtByte b 0 + dhtByte b 1 + dhtByte b 2 + dhtByte b 3).toNat
      = (byteAt b 0 + byteAt b 1 + byteAt b 2 + byteAt b 3) % 256 := by
  simp only [BitVec.toNat_add]
  rw [toNat_dhtByte (by omega), toNat_dhtByte (by omega), toNat_dhtByte (by omega), toNat_dhtByte (by omega)]
  omega

theorem validate_dht22 {b : Bits} (h : b.length = 40) : validate ⟨.dht22, 40⟩ b = dhtCheck b := if_pos h

/-! ### The obligations -/

/-- Settles O34: the verdict on BS is stored as it is; without a frame VAL fails with RECON's error. -/
theorem valStoresVerdict : Obligations.ValStoresVerdict :=
  ⟨fun _ _ => exec_val_of_frameOf_eq_some, fun _ => exec_val_of_frameOf_eq_none,
    encodedN_of_format_none Laws.EncodedWord.val rfl⟩

/-- Settles O35: the mismatches are Hamming distances, at most 8, so each fits its field of VSTAT. -/
theorem necReflectionCheck : Obligations.NecReflectionCheck := by
  refine ⟨fun b h => ?oneHalf, fun b h => ?twoHalves⟩
  case oneHalf =>
    rw [validate_nec_16 h]
    exact ⟨halfPasses_iff _, toNat_vstatOf _ (hamming_le b 0) (Nat.zero_le 8), rfl⟩
  case twoHalves =>
    rw [validate_nec_32 h]
    refine ⟨?pass, toNat_vstatOf _ (hamming_le b 0) (hamming_le b 16), rfl⟩
    case pass => rw [Bool.and_eq_true, halfPasses_iff, halfPasses_iff]

/-- Settles O36: both checksums are bytes, so they are equal as words when they are as numbers, and CSUM's four fields are
those of `toNat_checksumWord`. -/
theorem dhtChecksumCheck : Obligations.DhtChecksumCheck := by
  intro b h
  have hreceived : (dhtByte b 4).toNat = byteAt b 4 := toNat_dhtByte (by omega)
  rw [validate_dht22 h, ← toNat_computed h, ← hreceived]
  refine ⟨?pass, toNat_checksumWord _ _, ?vstat⟩
  case pass => exact decide_eq_true_iff.trans BitVec.toNat_inj.symm
  case vstat => exact toNat_vstatOf _ (Nat.zero_le 8) (Nat.zero_le 8)

end Sys2Proof.Proofs.Validator

/-! The bit string encoder and the views (spec/47_encoder.md R195 to R204): RD of a view in every state, BS written from a
string and read back, the outcomes of ENC, and their statements. -/

namespace Sys2Proof.Proofs.Encoder

open Sys2Proof Sys2Proof.Machine Sys2Proof.Claims
open Sys2Proof.Proofs.Control Sys2Proof.Proofs.RegisterAccess Sys2Proof.Proofs.Classifier
open Sys2Proof.Proofs.Reconstructor Sys2Proof.Proofs.Validator

/-! ### Reading a view (R112, R199 to R204) -/

/-- RD of a read-only register answers its value, whether or not the state is legal. -/
theorem exec_rd_of_ofNumber_ro {r : BitVec 6} {q : RoReg} {s : State} {n : Nat} (hname : RegName.ofNumber r = .ro q)
    (hvalue : (readRo s q).toNat = n) : exec (.rd r) s = .next (answered n s) := by
  rw [exec_rd, execRd, hname, ← hvalue, ← respond_eq_answered]

/-! ### BS as a string (R34, R196) -/

theorem bsBits_length (s : State) : (bsBits s).length = s.bsLen.toNat := by
  rw [← bitString_eq_bsBits, bitString_length]

theorem bitsVal_bsBits (s : State) : bitsVal (bsBits s) = bsvOf s % 2 ^ s.bsLen.toNat := by
  rw [← bitString_eq_bsBits, State.bitString, bitsVal_bitsOf]
  rfl

section Pack

variable {b : Bits}

/-- Writing a string stores its value, as a report that carries the string does: it is written by `packBits`. -/
theorem bsvOf_packBits (h : b.length ≤ 40) (s : State) : bsvOf (packBits b s) = bitsVal b :=
  bsvOf_reported (r := { clearedReport s .ok with bits := b }) h s

/-- The six bits of BS_LEN hold every length up to 40. -/
theorem toNat_packBits_bsLen (h : b.length ≤ 40) (s : State) : (packBits b s).bsLen.toNat = b.length :=
  toNat_ofNat_of_lt (h.trans_lt (by decide))

theorem bsBits_packBits (h : b.length ≤ 40) (s : State) : bsBits (packBits b s) = b :=
  bsBits_reported (r := { clearedReport s .ok with bits := b }) h s

end Pack

/-- A string read from BS has BS_LEN's length, so writing it back keeps BS_LEN. -/
theorem packBits_bsBits_bsLen (s : State) : (packBits (bsBits s) s).bsLen = s.bsLen := by
  rw [packBits, bsBits_length, BitVec.ofNat_toNat, BitVec.setWidth_eq]

/-! ### The outcomes of ENC under CFGOK (R197) -/

section Enc

variable {s : State}

theorem exec_enc_of_cfgLegal (h : CfgLegal s) :
    exec .enc s = .next (if 40 < s.bsLen.toNat then errored 8 s
      else { s with dbuf := (bsBits s).map (canon s), done := true }) := by
  rw [← bitString_eq_bsBits]
  exact congrArg _ (ite_cfgOk_of_cfgLegal h _ _)

theorem exec_enc_of_le (h : CfgLegal s) (hlen : s.bsLen.toNat ≤ 40) :
    exec .enc s = .next { s with dbuf := (bsBits s).map (canon s), done := true } := by
  rw [exec_enc_of_cfgLegal h, if_neg (Nat.not_lt_of_le hlen)]

theorem exec_enc_of_lt (h : CfgLegal s) (hlen : 40 < s.bsLen.toNat) : exec .enc s = .next (errored 8 s) := by
  rw [exec_enc_of_cfgLegal h, if_pos hlen]

end Enc

/-! ### The obligations -/

/-- Settles O20: 29 to 31 name the NEC views, whose values need no condition on the state. -/
theorem necViewsRead : Obligations.NecViewsRead := fun s =>
  ⟨exec_rd_of_ofNumber_ro rfl (toNat_necHex s), exec_rd_of_ofNumber_ro rfl (toNat_necAddr s),
    exec_rd_of_ofNumber_ro rfl (toNat_necCmd s)⟩

/-- Settles O21: 32 to 34 name the DHT22 views, whose values need no condition on the state. -/
theorem dhtViewsRead : Obligations.DhtViewsRead := fun s =>
  ⟨exec_rd_of_ofNumber_ro rfl (toNat_dhtHum s), exec_rd_of_ofNumber_ro rfl (toNat_dhtTemp s),
    exec_rd_of_ofNumber_ro rfl (toNat_dhtCsum s)⟩

/-- Settles O38: a string of up to 40 bits fits BS and its length BS_LEN; the string read from BS has the value of BSV
below BS_LEN. -/
theorem packingIsInverse : Obligations.PackingIsInverse := by
  refine ⟨fun b s h => ⟨bsvOf_packBits h s, toNat_packBits_bsLen h s, bsBits_packBits h s⟩,
    fun s h => ⟨packBits_bsBits_bsLen s, ?value⟩⟩
  case value => rw [bsvOf_packBits ((bsBits_length s).trans_le h), bitsVal_bsBits]

/-- Settles O39: CFGOK is checked before BS_LEN, and DBUF is written where both checks hold. -/
theorem encWritesCanonicalDurations : Obligations.EncWritesCanonicalDurations :=
  ⟨fun _ => exec_enc_of_le, fun _ => exec_enc_of_lt, fun _ => exec_enc_of_not_cfgLegal,
    encodedN_of_format_none Laws.EncodedWord.enc rfl⟩

end Sys2Proof.Proofs.Encoder

/-! Errors of accepted words (spec/60_exceptions.md R211 to R215): the error a decoded command raises, what `exec` answers
with it and without it, that R213's order on words is that error, and the statement. -/

namespace Sys2Proof.Proofs.Errors

open Sys2Proof Sys2Proof.Machine Sys2Proof.Claims
open Sys2Proof.Proofs.Encoding Sys2Proof.Proofs.Control Sys2Proof.Proofs.RegisterAccess Sys2Proof.Proofs.Input
open Sys2Proof.Proofs.WindowComparator Sys2Proof.Proofs.Classifier Sys2Proof.Proofs.Reconstructor
open Sys2Proof.Proofs.Validator Sys2Proof.Proofs.Encoder

/-! ### The error of a decoded command (R210, R213) -/

/-- The error of a command whose word is lawful, by R213's order; `answer_exec` ties it to `exec`. -/
def commandError (i : Instr) (s : State) : Option (BitVec 8) :=
  match i with
  | .wr r _ | .wrh r _ => if 35 ≤ r.toNat then some 3 else if 16 ≤ r.toNat then some 4 else none
  | .rd r => if 35 ≤ r.toNat then some 3 else none
  | .rdd x => if s.dbuf.length ≤ x.toNat then some 6 else none
  | .rdf x => if s.fb.length ≤ x.toNat then some 6 else none
  | .pushd _ | .pusht _ => if s.dbuf.length = s.cfg.nDur then some 5 else none
  | .classify _ => if ¬ CfgLegal s then some 7 else none
  | .recon => if ¬ CfgLegal s then some 7 else if frameOf s = none then some 7 else none
  | .val => if frameOf s = none then some 7 else none
  | .enc => if ¬ CfgLegal s then some 7 else if 40 < s.bsLen.toNat then some 8 else none
  | .nop | .rst | .clrd | .clrst | .sett _ | .wincmp _ => none

/-! ### The answer of a command (R211, R215) -/

/-- A command without an error keeps ERRCODE and ERR, RST and CLRST apart, and a read responds. -/
def ErrorFree (m : Mnemonic) (s t : State) : Prop :=
  (m ≠ .rst → m ≠ .clrst → t.errCode = s.errCode ∧ t.err = s.err) ∧ (reads m = true → t.rsp.isSome = true)

/-- A command's answer from `s` where its error is `e`: the error recorded and nothing else, or an error-free state. -/
def Answer (m : Mnemonic) (s : State) (e : Option (BitVec 8)) (result : Result) : Prop :=
  match e with
  | some c => result = .next (erroredBy m c s)
  | none => ∃ t, result = .next t ∧ ErrorFree m s t

section Answers

variable {m : Mnemonic} {s t : State}

theorem erroredBy_of_not_reads (hm : reads m = false) (c : BitVec 8) (s : State) : erroredBy m c s = errored c s := by
  rw [erroredBy, hm]; rfl

theorem erroredBy_of_reads (hm : reads m = true) (c : BitVec 8) (s : State) : erroredBy m c s = erroredRead c s := by
  rw [erroredBy, hm]; rfl

/-- A command that is no read answers an error by recording it. -/
theorem answer_errored (hm : reads m = false) (c : BitVec 8) (s : State) : Answer m s (some c) (.next (errored c s)) :=
  congrArg _ (erroredBy_of_not_reads hm c s).symm

/-- A read answers an error with the response 0. -/
theorem answer_erroredRead (hm : reads m = true) (c : BitVec 8) (s : State) :
    Answer m s (some c) (.next (erroredRead c s)) :=
  congrArg _ (erroredBy_of_reads hm c s).symm

/-- A command that is no read completes by keeping ERRCODE and ERR. -/
theorem answer_kept (hm : reads m = false) (hcode : t.errCode = s.errCode) (herr : t.err = s.err) :
    Answer m s none (.next t) :=
  ⟨t, rfl, fun _ _ => ⟨hcode, herr⟩, fun hread => absurd (hm.symm.trans hread) Bool.false_ne_true⟩

/-- A read completes by responding, which keeps ERRCODE and ERR. -/
theorem answer_answered (v : Nat) (s : State) : Answer m s none (.next (answered v s)) :=
  ⟨_, rfl, fun _ _ => ⟨rfl, rfl⟩, fun _ => rfl⟩

/-- WR and WRH (R110, R111). -/
theorem answer_writeRegister (hm : reads m = false) (r : BitVec 6) (value : Word → Word) (s : State) :
    Answer m s (if 35 ≤ r.toNat then some 3 else if 16 ≤ r.toNat then some 4 else none)
      (.next (writeRegister r value s)) := by
  split_ifs with hundefined hreadOnly
  · rw [writeRegister_undefined value s hundefined]
    exact answer_errored hm 3 s
  · rw [writeRegister_ro value s hreadOnly (by omega)]
    exact answer_errored hm 4 s
  · obtain ⟨q, hname, -⟩ := ofNumber_rw (r := r) (by omega)
    rw [writeRegister, hname]
    exact answer_kept hm (by cases q <;> rfl) (by cases q <;> rfl)

/-- RD (R112). -/
theorem answer_rd (r : BitVec 6) (s : State) : Answer .rd s (commandError (.rd r) s) (exec (.rd r) s) := by
  rw [commandError]
  split_ifs with hundefined
  · rw [exec_rd_undefined s hundefined]
    exact answer_erroredRead rfl 3 s
  · rcases Nat.lt_or_ge r.toNat 16 with hlow | hhigh
    · rw [exec_rd_rw s (Nat.le_of_lt_succ hlow)]
      exact answer_answered _ s
    · obtain ⟨q, hname⟩ := ofNumber_ro hhigh (by omega)
      rw [exec_rd_of_ofNumber_ro hname rfl]
      exact answer_answered _ s

/-- RDD and RDF (R113, R114). -/
theorem answer_readBuffer {α : Type} (hm : reads m = true) (buf : List α) (x : BitVec 7) (word : α → Word) (s : State) :
    Answer m s (if buf.length ≤ x.toNat then some 6 else none) (.next (readBuffer (buf[x.toNat]?.map word) s)) := by
  split_ifs with hbeyond
  · rw [readBuffer_of_length_le hbeyond]
    exact answer_erroredRead hm 6 s
  · have helement : buf[x.toNat]? = some buf[x.toNat] := List.getElem?_eq_getElem (Nat.lt_of_not_le hbeyond)
    rw [readBuffer_of_getElem? helement]
    exact answer_answered _ s

/-- PUSHD and PUSHT (R120, R121): DBUF is full exactly at N_DUR, because it is never longer. -/
theorem answer_push (hm : reads m = false) (hbuf : s.dbuf.length ≤ s.cfg.nDur) (hcode : t.errCode = s.errCode)
    (herr : t.err = s.err) :
    Answer m s (if s.dbuf.length = s.cfg.nDur then some 5 else none)
      (.next (if dbufFull s then errored 5 s else t)) := by
  by_cases hfull : s.dbuf.length = s.cfg.nDur
  · rw [if_pos hfull, ite_dbufFull_of_eq hfull]
    exact answer_errored hm 5 s
  · rw [if_neg hfull, ite_dbufFull_of_lt (Nat.lt_of_le_of_ne hbuf hfull)]
    exact answer_kept hm hcode herr

/-- WINCMP raises no error (R131). -/
theorem answer_wincmp (d : Ticks) (s : State) : Answer .wincmp s (commandError (.wincmp d) s) (exec (.wincmp d) s) := by
  rw [commandError]
  by_cases hwin : s.startLo.toNat ≤ d.toNat ∧ d.toNat ≤ s.startHi.toNat
  · rw [exec_wincmp_of_inside hwin]
    exact answer_kept rfl rfl rfl
  · rw [exec_wincmp_of_outside hwin]
    exact answer_kept rfl rfl rfl

/-- CLASS (R144). -/
theorem answer_classify (d : Ticks) (s : State) :
    Answer .classify s (commandError (.classify d) s) (exec (.classify d) s) := by
  rw [commandError]
  split_ifs with hcfg
  · rw [exec_classify_of_cfgLegal hcfg]
    exact answer_kept rfl rfl rfl
  · rw [exec_classify_of_not_cfgLegal hcfg]
    exact answer_errored rfl 7 s

/-- RECON (R151, R169): CFGOK and FRAMEOK raise the same error. -/
theorem answer_recon (s : State) : Answer .recon s (commandError .recon s) (exec .recon s) := by
  rw [commandError]
  split_ifs with hcfg hframe
  · rw [exec_recon_of_frameOf_eq_none hframe]
    exact answer_errored rfl 7 s
  · obtain ⟨f, hf⟩ := Option.ne_none_iff_exists'.mp hframe
    rw [exec_recon_of_legal hcfg hf]
    exact answer_kept rfl rfl rfl
  · rw [exec_recon_of_not_cfgLegal hcfg]
    exact answer_errored rfl 7 s

/-- VAL (R185). -/
theorem answer_val (s : State) : Answer .val s (commandError .val s) (exec .val s) := by
  rw [commandError]
  split_ifs with hframe
  · rw [exec_val_of_frameOf_eq_none hframe]
    exact answer_errored rfl 7 s
  · obtain ⟨f, hf⟩ := Option.ne_none_iff_exists'.mp hframe
    rw [exec_val_of_frameOf_eq_some hf]
    exact answer_kept rfl rfl rfl

/-- ENC (R197): CFGOK comes before BS_LEN (R213). -/
theorem answer_enc (s : State) : Answer .enc s (commandError .enc s) (exec .enc s) := by
  rw [commandError]
  split_ifs with hcfg hlen
  · rw [exec_enc_of_lt hcfg hlen]
    exact answer_errored rfl 8 s
  · rw [exec_enc_of_le hcfg (Nat.le_of_not_lt hlen)]
    exact answer_kept rfl rfl rfl
  · rw [exec_enc_of_not_cfgLegal hcfg]
    exact answer_errored rfl 7 s

/-- Every command answers its error, or is free of errors. -/
theorem answer_exec (i : Instr) (hbuf : s.dbuf.length ≤ s.cfg.nDur) :
    Answer i.mnemonic s (commandError i s) (exec i s) := by
  cases i with
  | nop | clrd | sett => exact answer_kept rfl rfl rfl
  | rst => exact ⟨_, exec_rst s, fun hrst => absurd rfl hrst, fun hread => absurd hread (by decide)⟩
  | clrst => exact ⟨_, exec_clrst s, fun _ hclrst => absurd rfl hclrst, fun hread => absurd hread (by decide)⟩
  | wr r imm => exact answer_writeRegister rfl r _ s
  | wrh r imm => exact answer_writeRegister rfl r _ s
  | rd r => exact answer_rd r s
  | rdd x => exact answer_readBuffer rfl s.dbuf x _ s
  | rdf x => exact answer_readBuffer rfl s.fb x _ s
  | pushd d => rw [exec_pushd]; exact answer_push rfl hbuf rfl rfl
  | pusht u => rw [exec_pusht]; exact answer_push rfl hbuf rfl rfl
  | wincmp d => exact answer_wincmp d s
  | classify d => exact answer_classify d s
  | recon => exact answer_recon s
  | val => exact answer_val s
  | enc => exact answer_enc s

end Answers

/-! ### The first error of a word (R87, R213) -/

section Words

variable {w : Word} {m : Mnemonic}

theorem toNat_registerField (w : Word) : (registerField w).toNat = w.toNat / 2 ^ 16 % 64 := toNat_field w 16 6

theorem toNat_indexField (w : Word) : (indexField w).toNat = w.toNat % 128 := by
  rw [indexField, toNat_field]; omega

/-- An opcode names one row of the map (R86). -/
theorem eq_rowOf_of_opcode {row : Row} (hrow : row ∈ opcodeRows) (h : row.opcode = m.opcode.toNat) : row = rowOf m := by
  obtain ⟨m', rfl⟩ := mem_opcodeRows_iff.mp hrow
  have hop : m'.opcode = m.opcode := BitVec.eq_of_toNat_eq h
  have hm : some m' = some m := by rw [← ofOpcode_opcode m', hop, ofOpcode_opcode]
  rw [Option.some.inj hm]

theorem firstError_of_illegal (h : ∀ row ∈ opcodeRows, opOf w ≠ row.opcode) (s : State) : firstError w s = some 1 :=
  if_pos h

/-- An opcode of the map is not illegal. -/
theorem not_illegal_of_opcode (hop : opcodeField w = m.opcode) : ¬ ∀ row ∈ opcodeRows, opOf w ≠ row.opcode :=
  fun h => h _ (mem_opcodeRows_iff.mpr ⟨m, rfl⟩) (opOf_eq_rowOf_iff.mpr hop)

/-- The opcode's own row decides whether a reserved position is set. -/
theorem exists_reserved_iff (hop : opcodeField w = m.opcode) :
    (∃ row ∈ opcodeRows, opOf w = row.opcode ∧ w.toNat &&& row.reserved ≠ 0) ↔ w &&& m.format.reserved ≠ 0 := by
  have hopcode : opOf w = (rowOf m).opcode := opOf_eq_rowOf_iff.mpr hop
  rw [Ne, ← and_rowOf_reserved_iff]
  constructor
  · rintro ⟨row, hrow, hrowop, hset⟩
    rwa [← eq_rowOf_of_opcode hrow (hrowop.symm.trans hopcode)]
  · exact fun hset => ⟨rowOf m, mem_opcodeRows_iff.mpr ⟨m, rfl⟩, hopcode, hset⟩

theorem firstError_of_reserved (hop : opcodeField w = m.opcode) (hres : w &&& m.format.reserved ≠ 0) (s : State) :
    firstError w s = some 2 :=
  (if_neg (not_illegal_of_opcode hop)).trans (if_pos ((exists_reserved_iff hop).mpr hres))

/-- A lawful word's first error is that of the command read from it. -/
theorem firstError_of_command (hop : opcodeField w = m.opcode) (hres : w &&& m.format.reserved = 0) (s : State) :
    firstError w s = commandError (m.withOperands w) s := by
  have hopcode : opOf w = m.opcode.toNat := opOf_eq_rowOf_iff.mpr hop
  refine (if_neg (not_illegal_of_opcode hop)).trans
    ((if_neg (mt (exists_reserved_iff hop).mp (not_not_intro hres))).trans ?_)
  rw [hopcode]
  cases m with
  | wr | wrh | rd => simp [Mnemonic.opcode, Mnemonic.withOperands, commandError, toNat_registerField]
  | rdd | rdf => simp [Mnemonic.opcode, Mnemonic.withOperands, commandError, toNat_indexField]
  | nop | rst | clrd | clrst | pushd | pusht | sett | wincmp | classify | recon | val | enc =>
    simp [Mnemonic.opcode, Mnemonic.withOperands, commandError]

theorem reads_iff_opcode (m : Mnemonic) :
    reads m = true ↔ m.opcode.toNat = 0x0A ∨ m.opcode.toNat = 0x0B ∨ m.opcode.toNat = 0x0C := by
  cases m <;> decide

/-- The statement's answer to an error is that of the opcode's mnemonic. -/
theorem ite_opOf_eq_erroredBy (hop : opcodeField w = m.opcode) (c : BitVec 8) (s : State) :
    (if opOf w = 0x0A ∨ opOf w = 0x0B ∨ opOf w = 0x0C then erroredRead c s else errored c s) = erroredBy m c s := by
  have hopcode : opOf w = m.opcode.toNat := opOf_eq_rowOf_iff.mpr hop
  simp only [erroredBy, hopcode, reads_iff_opcode]

/-- An illegal opcode is no read's. -/
theorem not_read_of_illegal (h : ∀ row ∈ opcodeRows, opOf w ≠ row.opcode) :
    ¬ (opOf w = 0x0A ∨ opOf w = 0x0B ∨ opOf w = 0x0C) := by
  rintro (hrd | hrdd | hrdf)
  · exact h (rowOf .rd) (mem_opcodeRows_iff.mpr ⟨_, rfl⟩) hrd
  · exact h (rowOf .rdd) (mem_opcodeRows_iff.mpr ⟨_, rfl⟩) hrdd
  · exact h (rowOf .rdf) (mem_opcodeRows_iff.mpr ⟨_, rfl⟩) hrdf

/-- A word is illegal, or its opcode is a mnemonic's. -/
theorem illegal_or_opcode (w : Word) :
    (∀ row ∈ opcodeRows, opOf w ≠ row.opcode) ∨ ∃ m : Mnemonic, opcodeField w = m.opcode := by
  by_cases h : ∃ m : Mnemonic, opcodeField w = m.opcode
  · exact .inr h
  · refine .inl fun row hrow hop => h ?_
    obtain ⟨m, rfl⟩ := mem_opcodeRows_iff.mp hrow
    exact ⟨m, opOf_eq_rowOf_iff.mp hop⟩

/-- The answer to a word whose opcode is in the map: a set reserved bit, or its command's answer. -/
theorem answer_acceptWord {s : State} (hop : opcodeField w = m.opcode) (hbuf : s.dbuf.length ≤ s.cfg.nDur) :
    Answer m s (firstError w s) (acceptWord w s) := by
  by_cases hres : w &&& m.format.reserved = 0
  · have hanswer := answer_exec (m.withOperands w) hbuf
    rwa [withOperands_mnemonic, ← firstError_of_command hop hres, ← acceptWord_ok (decode_ok hop hres)] at hanswer
  · rw [firstError_of_reserved hop hres]
    exact (acceptWord_error (decode_reserved hop hres) s).trans (congrArg _ (rejectWord_reservedBits m s))

end Words

/-! ### The obligation -/

/-- Settles O50: an illegal opcode is the first error and no read's; for any other the answer is `answer_acceptWord`'s. -/
theorem errorsArePreciseAndOrdered : Obligations.ErrorsArePreciseAndOrdered := by
  intro w s hbuf
  rcases illegal_or_opcode w with hillegal | ⟨m, hop⟩
  case inl =>
    rw [firstError_of_illegal hillegal]
    refine ⟨fun c hc => ?illegal, fun hnone => absurd hnone (Option.some_ne_none 1)⟩
    case illegal =>
      rw [if_neg (not_read_of_illegal hillegal), acceptWord_error (decode_illegal hillegal), ← Option.some.inj hc,
        rejectWord_illegalOpcode]
  case inr =>
    have hopcode : opOf w = m.opcode.toNat := opOf_eq_rowOf_iff.mpr hop
    have hanswer := answer_acceptWord hop hbuf
    refine ⟨fun c hc => ?error, fun hnone => ?errorFree⟩
    case error =>
      rw [hc] at hanswer
      rw [ite_opOf_eq_erroredBy hop]
      exact hanswer
    case errorFree =>
      rw [hnone] at hanswer
      obtain ⟨t, ht, hkept, hresponds⟩ := hanswer
      rw [hopcode, ← reads_iff_opcode]
      exact ⟨t, ht, fun hrst hclrst => hkept (fun h => hrst (h ▸ rfl)) (fun h => hclrst (h ▸ rfl)), hresponds⟩

end Sys2Proof.Proofs.Errors

/-! The reset state (spec/70_reset_and_hazards.md R231): what makes CFGOK, FRAMEOK, `irq`, STATUS and the six views 0 in
any state, that the reset values meet it, and the statement. -/

namespace Sys2Proof.Proofs.Reset

open Sys2Proof Sys2Proof.Machine Sys2Proof.Claims Sys2Proof.Proofs.Control

/-! ### When the flags and the views are 0 (R36, R140, R180, R199 to R204, R216) -/

section Zero

variable {s : State}

/-- CFGOK asks for a SPACE_LEN of at least 1 (R140). -/
theorem cfgOk_of_spaceLen_eq_zero (h : s.spaceLen = 0) : s.cfgOk = false := by
  refine Bool.eq_false_iff.mpr fun hok => ?_
  obtain ⟨hspace, -, -⟩ := (cfgOk_iff s).mp hok
  rw [h] at hspace
  exact absurd hspace (by decide)

/-- Every legal frame has at least one bit, whatever the MODE (R180). -/
theorem frameOk_of_frameLen_eq_zero (h : s.frameLen = 0) : s.frameOk = false := by
  refine Bool.eq_false_iff.mpr fun hok => ?_
  obtain ⟨f, hf⟩ := Option.isSome_iff_exists.mp hok
  obtain ⟨hlen, hpos, -⟩ := frameConfig_length hf
  rw [hlen, h] at hpos
  exact absurd hpos (by decide)

/-- Neither enable raises `irq` without its cause (R216). -/
theorem irq_of_done_err_clear (hdone : s.done = false) (herr : s.err = false) : s.irq = false := by
  rw [State.irq, hdone, herr, Bool.false_and, Bool.false_and, Bool.or_false]

/-- STATUS reads 0 when its stored flags and both checks are 0: IRQ then is 0 too (R36). -/
theorem statusWord_eq_zero (hdone : s.done = false) (herr : s.err = false) (harmed : s.armed = false)
    (hrepeat : s.repeatGap = false) (hcfg : s.cfgOk = false) (hframe : s.frameOk = false) : s.statusWord = 0 := by
  rw [State.statusWord, irq_of_done_err_clear hdone herr, hdone, herr, harmed, hrepeat, hcfg, hframe]
  rfl

/-- The NEC views read 0 unless BS holds a NEC frame's 32 bits (R199 to R201). -/
theorem necViews_eq_zero (h : s.bsLen ≠ 32) : s.necHex = 0 ∧ s.necAddr = 0 ∧ s.necCmd = 0 :=
  ⟨if_neg h, if_neg h, if_neg h⟩

/-- The DHT22 views read 0 unless BS holds a DHT22 frame's 40 bits (R202 to R204). -/
theorem dhtViews_eq_zero (h : s.bsLen ≠ 40) : s.dhtHum = 0 ∧ s.dhtTemp = 0 ∧ s.dhtCsum = 0 :=
  ⟨if_neg h, if_neg h, if_neg h⟩

end Zero

/-! ### The reset state's length of BS -/

theorem resetState_bsLen_ne (cfg : Config) (p : Bool) (inputs : List PortEdge) {n : BitVec 6} (h : n ≠ 0) :
    (resetState cfg p inputs).bsLen ≠ n :=
  h.symm

/-! ### The obligation -/

/-- Settles O7: resetting the reset state gives R231's table; in it SPACE_LEN, FRAME_LEN and BS_LEN are 0 and no flag is
set, which is what the derived values rest on. -/
theorem resetStateValues : Obligations.ResetStateValues := by
  refine ⟨resetBlock_eq_resetState State.reset, fun cfg p inputs => ?derived⟩
  case derived =>
    have hcfg : (resetState cfg p inputs).cfgOk = false := cfgOk_of_spaceLen_eq_zero rfl
    have hframe : (resetState cfg p inputs).frameOk = false := frameOk_of_frameLen_eq_zero rfl
    obtain ⟨hhex, haddr, hcmd⟩ := necViews_eq_zero (resetState_bsLen_ne cfg p inputs (n := 32) (by decide))
    have hdht := dhtViews_eq_zero (resetState_bsLen_ne cfg p inputs (n := 40) (by decide))
    exact ⟨statusWord_eq_zero rfl rfl rfl rfl hcfg hframe, hcfg, hframe, irq_of_done_err_clear rfl rfl,
      hhex, haddr, hcmd, hdht⟩

end Sys2Proof.Proofs.Reset

/-! Decoding and encoding as inverses (spec/30_encoding.md R83 to R87), and the assembler's command lines (R90): the words of
all commands read back, and which source lines are some command's. -/

namespace Sys2Proof.Proofs.Inverse

open Sys2Proof Sys2Proof.Machine Sys2Proof.Claims
open Sys2Proof.Proofs.Encoding Sys2Proof.Proofs.RegisterAccess

/-! ### Decoding an encoded command (R83 to R86) -/

/-- The laws of the encoded word hold for every command. -/
theorem encodedWord_lawful (i : Instr) : Laws.EncodedWord.Statement i := by
  cases i with
  | nop => exact Laws.EncodedWord.nop
  | rst => exact Laws.EncodedWord.rst
  | clrd => exact Laws.EncodedWord.clrd
  | clrst => exact Laws.EncodedWord.clrst
  | wr r imm16 => exact Laws.EncodedWord.wr r imm16
  | wrh r imm16 => exact Laws.EncodedWord.wrh r imm16
  | rd r => exact Laws.EncodedWord.rd r
  | rdd x => exact Laws.EncodedWord.rdd x
  | rdf x => exact Laws.EncodedWord.rdf x
  | pushd d => exact Laws.EncodedWord.pushd d
  | pusht t => exact Laws.EncodedWord.pusht t
  | sett t => exact Laws.EncodedWord.sett t
  | wincmp d => exact Laws.EncodedWord.wincmp d
  | classify d => exact Laws.EncodedWord.classify d
  | recon => exact Laws.EncodedWord.recon
  | val => exact Laws.EncodedWord.val
  | enc => exact Laws.EncodedWord.enc

/-- The operands read from a command's own word are the command's. -/
theorem withOperands_encode (i : Instr) : i.mnemonic.withOperands (encode i) = i := by
  cases i with
  | nop | rst | clrd | clrst | recon | val | enc => rfl
  | wr r imm => exact congrArg₂ Instr.wr (registerField_regImm _ r imm) (immediateField_regImm _ r imm)
  | wrh r imm => exact congrArg₂ Instr.wrh (registerField_regImm _ r imm) (immediateField_regImm _ r imm)
  | rd r => exact congrArg Instr.rd (registerField_regImm _ r 0)
  | rdd x => exact congrArg Instr.rdd (indexField_index _ x)
  | rdf x => exact congrArg Instr.rdf (indexField_index _ x)
  | pushd d => exact congrArg Instr.pushd (dataField_append _ d)
  | pusht t => exact congrArg Instr.pusht (dataField_append _ t)
  | sett t => exact congrArg Instr.sett (dataField_append _ t)
  | wincmp d => exact congrArg Instr.wincmp (dataField_append _ d)
  | classify d => exact congrArg Instr.classify (dataField_append _ d)

theorem decode_encode (i : Instr) : decode (encode i) = .ok i := by
  obtain ⟨hop, hres, -⟩ := encodedWord_lawful i
  rw [decode_ok hop hres, withOperands_encode]

/-! ### The lines that assemble (R90) -/

/-- The operands that R90 lets a format have. -/
def OperandsFit : Format → List Nat → Prop
  | .none, ops => ops = []
  | .regImm, ops => ∃ r imm : Nat, ops = [r, imm] ∧ r ≤ 63 ∧ imm ≤ 0xFFFF
  | .query, ops => ∃ r : Nat, ops = [r] ∧ r ≤ 63
  | .index, ops => ∃ x : Nat, ops = [x] ∧ x ≤ 127
  | .data, ops => ∃ d : Nat, ops = [d] ∧ d ≤ 0xFFFFFF

theorem lineFits_iff (l : SourceLine) : LineFits l ↔ OperandsFit l.mnemonic.format l.operands := by
  obtain ⟨m, ops⟩ := l
  cases m <;> rfl

theorem wellFormed_iff_operandsFit (l : SourceLine) :
    l.wellFormed = true ↔ OperandsFit l.mnemonic.format l.operands := by
  unfold SourceLine.wellFormed
  cases l.mnemonic.format with
  | none => rcases l.operands with _ | ⟨_, _⟩ <;> simp [OperandsFit]
  | regImm => rcases l.operands with _ | ⟨_, _ | ⟨_, _ | ⟨_, _⟩⟩⟩ <;> simp [OperandsFit]
  | query => rcases l.operands with _ | ⟨_, _ | ⟨_, _⟩⟩ <;> simp [OperandsFit]
  | index => rcases l.operands with _ | ⟨_, _ | ⟨_, _⟩⟩ <;> simp [OperandsFit]
  | data => rcases l.operands with _ | ⟨_, _ | ⟨_, _⟩⟩ <;> simp [OperandsFit]

/-- The operands of a word as a line states them, by the format they are read in. -/
def sourceOperands (f : Format) (w : Word) : List Nat :=
  match f with
  | .none => []
  | .regImm => [(registerField w).toNat, (immediateField w).toNat]
  | .query => [(registerField w).toNat]
  | .index => [(indexField w).toNat]
  | .data => [(dataField w).toNat]

theorem source_withOperands (m : Mnemonic) (w : Word) :
    (m.withOperands w).source = ⟨m, sourceOperands m.format w⟩ := by cases m <;> rfl

/-- Operands that fit their format are those of some word. -/
theorem exists_word_of_operandsFit {f : Format} {ops : List Nat} (h : OperandsFit f ops) :
    ∃ w : Word, sourceOperands f w = ops := by
  have fits {n x : Nat} (hx : x ≤ 2 ^ n - 1) : (BitVec.ofNat n x).toNat = x :=
    Nat.mod_eq_of_lt (Nat.lt_of_le_pred (Nat.two_pow_pos n) hx)
  cases f with
  | none => exact ⟨0, h.symm⟩
  | regImm =>
    obtain ⟨r, imm, rfl, hr, himm⟩ := h
    refine ⟨0#8 ++ (0#2 ++ BitVec.ofNat 6 r ++ BitVec.ofNat 16 imm), ?_⟩
    rw [sourceOperands, registerField_regImm, immediateField_regImm, fits hr, fits himm]
  | query =>
    obtain ⟨r, rfl, hr⟩ := h
    refine ⟨0#8 ++ (0#2 ++ BitVec.ofNat 6 r ++ 0#16), ?_⟩
    rw [sourceOperands, registerField_regImm, fits hr]
  | index =>
    obtain ⟨x, rfl, hx⟩ := h
    refine ⟨0#8 ++ (0#17 ++ BitVec.ofNat 7 x), ?_⟩
    rw [sourceOperands, indexField_index, fits hx]
  | data =>
    obtain ⟨d, rfl, hd⟩ := h
    refine ⟨0#8 ++ BitVec.ofNat 24 d, ?_⟩
    rw [sourceOperands, dataField_append, fits hd]

/-- A well-formed line is the line of some command. -/
theorem exists_source_of_wellFormed {l : SourceLine} (h : l.wellFormed = true) : ∃ i : Instr, i.source = l := by
  obtain ⟨w, hw⟩ := exists_word_of_operandsFit ((wellFormed_iff_operandsFit l).mp h)
  exact ⟨l.mnemonic.withOperands w, by rw [source_withOperands, hw]⟩

/-- A command's own line assembles to the command: its operands fit their fields by their types. -/
theorem assemble_source (i : Instr) : i.source.assemble = some i := by
  obtain ⟨-, -, hwf⟩ := encodedWord_lawful i
  refine (if_pos hwf).trans ?_
  cases i <;> simp [Instr.source, Instr.mnemonic]

theorem wellFormed_of_assemble {l : SourceLine} (h : l.assemble.isSome = true) : l.wellFormed = true := by
  by_contra hwf
  rw [SourceLine.assemble, if_neg hwf] at h
  exact absurd h Bool.false_ne_true

/-! ### The obligations -/

/-- Settles O1: each word is the encoding of its command. -/
theorem sampleWordsDecode : Obligations.SampleWordsDecode :=
  ⟨decode_encode (.wr 1 2250), decode_encode (.rd 29), decode_encode (.pushd 1125), decode_encode (.rdd 3),
    decode_encode .recon, decode_encode (.wrh 10 1), decode_encode (.wincmp 13500), decode_encode .nop⟩

/-- Settles O2: the word has the mnemonic's opcode, 0 in every reserved position and the operands in their fields. -/
theorem decodeOfEncode : Obligations.DecodeOfEncode := decode_encode

/-- Settles O3: of the answers of `decode` only the last is a command, and its word is all opcode and operands. -/
theorem encodeOfDecode : Obligations.EncodeOfDecode := by
  intro w i hi
  rcases decode_cases w with ⟨-, hdec⟩ | ⟨m, hop, ⟨-, hdec⟩ | ⟨hres, hdec⟩⟩ <;> rw [hdec] at hi <;> cases hi
  exact encode_withOperands hop.symm hres

/-- Settles O4: the well-formed lines are the commands' own lines, and each of these assembles to its command. -/
theorem wellFormedLinesAssemble : Obligations.WellFormedLinesAssemble := by
  intro l
  refine ⟨(wellFormed_iff_operandsFit l).trans (lineFits_iff l).symm, ⟨fun hwf => ?assembles, wellFormed_of_assemble⟩,
    fun i hi => ?command⟩
  case assembles =>
    obtain ⟨j, rfl⟩ := exists_source_of_wellFormed hwf
    rw [assemble_source]
    rfl
  case command =>
    obtain ⟨j, rfl⟩ := exists_source_of_wellFormed (wellFormed_of_assemble (Option.isSome_of_eq_some hi))
    rw [assemble_source, Option.some.injEq] at hi
    rw [hi]

end Sys2Proof.Proofs.Inverse

/-! The ports (spec/30_encoding.md R81, R82, spec/60_exceptions.md R216, R217, R221, spec/70_reset_and_hazards.md R230): a step
at an edge of each kind, that every step goes on, and the interrupt line. -/

namespace Sys2Proof.Proofs.Ports

open Sys2Proof Sys2Proof.Machine Sys2Proof.Claims
open Sys2Proof.Proofs.Encoding Sys2Proof.Proofs.Control Sys2Proof.Proofs.RegisterAccess Sys2Proof.Proofs.Classifier

/-! ### The step at one edge -/

section Step

variable {s : State} {e : PortEdge} {rest : List PortEdge}

theorem step_of_no_edge (h : s.inputs = []) : step s = .next s := by rw [step, h]

theorem step_of_edge (h : s.inputs = e :: rest) : step s = clockEdge e { s with inputs := rest } := by rw [step, h]

/-- An edge with `rst_n` = 0 (R230). -/
theorem clockEdge_reset (hrst : e.rstN = false) (s : State) :
    clockEdge e s = .next { resetBlock s with inReset := true } := by simp [clockEdge, hrst]

/-- The first edge after a reset (R230). -/
theorem clockEdge_after_reset (hrst : e.rstN = true) (hreset : s.inReset = true) :
    clockEdge e s = .next { s with inReset := false } := by simp [clockEdge, hrst, hreset]

/-- An edge at which a response waits (R81, R82). -/
theorem clockEdge_waiting {v : Word} (hrst : e.rstN = true) (hreset : s.inReset = false) (hrsp : s.rsp = some v) :
    clockEdge e s = .next (takeResponse e.rspReady s) := by
  simp [clockEdge, hrst, hreset, State.cmdReady, State.rspValid, hrsp]

/-- An edge at which the block is ready and nothing is offered (R221). -/
theorem clockEdge_idle (hrst : e.rstN = true) (hcmd : e.cmd = none) (hreset : s.inReset = false) (hrsp : s.rsp = none) :
    clockEdge e s = .next s := by
  simp [clockEdge, hrst, hreset, State.cmdReady, State.busy, State.rspValid, hrsp, hcmd]

/-- What an edge does to a waiting response: it goes when the host is ready for it. -/
theorem takeResponse_of_waiting {v : Word} (hrsp : s.rsp = some v) (ready : Bool) :
    takeResponse ready s = { s with rsp := if ready then none else some v } := by
  cases ready with
  | true => rfl
  | false => rw [← hrsp]; rfl

end Step

/-! ### Every step goes on (R217) -/

theorem acceptWord_answers_next (w : Word) (s : State) : ∃ t, acceptWord w s = .next t := by
  cases hdec : decode w with
  | ok i => rw [acceptWord_ok hdec]; exact exec_answers_next i s
  | error err => exact ⟨_, acceptWord_error hdec s⟩

theorem clockEdge_answers_next (e : PortEdge) (s : State) : ∃ t, clockEdge e s = .next t := by
  unfold clockEdge
  split_ifs with hrst hreset hready
  · exact ⟨_, rfl⟩
  · cases e.cmd with
    | none => exact ⟨_, rfl⟩
    | some w => exact acceptWord_answers_next w s
  · exact ⟨_, rfl⟩
  · exact ⟨_, rfl⟩

/-! ### STATUS.IRQ (R36, R216) -/

theorem statusWord_getLsbD_irq (s : State) : s.statusWord.getLsbD 6 = s.irq := by
  simp only [State.statusWord, BitVec.getLsbD_or, getLsbD_flagBit]
  simp

/-! ### The obligations -/

/-- Settles O5: the edge accepts the word, which is its command. -/
theorem stepRunsDecodedCommand : Obligations.StepRunsDecodedCommand := by
  intro s e rest w i hin hrst hcmd hidle hrsp hdec
  rw [step_accepts hin hrst hcmd hidle hrsp, acceptWord_ok hdec]

/-- Settles O8: the reset edge leaves R231's state with the reset condition set; the next edge only clears that. -/
theorem resetEdgeResetsBlock : Obligations.ResetEdgeResetsBlock := by
  refine ⟨fun s e rest hin hrst => ?reset, fun s e rest hin hrst hreset => ?after⟩
  case reset =>
    rw [step_of_edge hin, clockEdge_reset hrst, resetBlock_eq_resetState]
    rfl
  case after => exact (step_of_edge hin).trans (clockEdge_after_reset hrst hreset)

/-- Settles O9: with a response waiting `cmd_ready` is 0, so the edge does nothing but hand the response over. -/
theorem waitingResponseHoldsCommandsOff : Obligations.WaitingResponseHoldsCommandsOff := by
  intro s e rest v hin hrst hidle hrsp
  calc step s
      = clockEdge e { s with inputs := rest } := step_of_edge hin
    _ = .next (takeResponse e.rspReady { s with inputs := rest }) := clockEdge_waiting hrst hidle hrsp
    _ = .next { s with inputs := rest, rsp := if e.rspReady then none else some v } :=
        congrArg _ (takeResponse_of_waiting (s := { s with inputs := rest }) hrsp e.rspReady)

/-- Settles O10: with no edge the step holds the state, and an edge that offers nothing is used up. -/
theorem idleEdgesHoldState : Obligations.IdleEdgesHoldState :=
  ⟨fun _ => step_of_no_edge, fun _ _ _ hin hrst hcmd hidle hrsp =>
    (step_of_edge hin).trans (clockEdge_idle hrst hcmd hidle hrsp)⟩

/-- Settles O11: no edge stops the block, since no accepted word does. -/
theorem stepAlwaysGoesOn : Obligations.StepAlwaysGoesOn := by
  intro s
  cases hin : s.inputs with
  | nil => exact ⟨s, step_of_no_edge hin⟩
  | cons e rest => rw [step_of_edge hin]; exact clockEdge_answers_next e _

/-- Settles O22: both are R216's formula. -/
theorem interruptIsALevel : Obligations.InterruptIsALevel := fun s =>
  ⟨irq_eq_irqLevel s, (statusWord_getLsbD_irq s).trans (irq_eq_irqLevel s)⟩

end Sys2Proof.Proofs.Ports

/-! RECON's guarantees (spec/45_reconstructor.md R157, R168, R169) and the validator's length check (spec/46_validator.md
R184): the frame of RECON, repeating it, its round trip with ENC, and their statements. -/

namespace Sys2Proof.Proofs.Reconstruction

open Sys2Proof Sys2Proof.Machine Sys2Proof.Claims
open Sys2Proof.Proofs.RegisterAccess Sys2Proof.Proofs.Classifier Sys2Proof.Proofs.Segments
open Sys2Proof.Proofs.Reconstructor Sys2Proof.Proofs.Encoder

/-! ### No candidate is longer than three Marks (R157, R158) -/

/-- With a Space shorter than a Mark, no string is longer than as many Marks. -/
theorem nominal_le_length_mul_mark {t : Timing} (h : t.space ≤ t.mark) (c : Bits) : nominal t c ≤ c.length * t.mark := by
  calc nominal t c
      = c.count true * t.mark + c.count false * t.space := nominal_eq_count t c
    _ ≤ c.count true * t.mark + c.count false * t.mark := Nat.add_le_add_left (Nat.mul_le_mul_left _ h) _
    _ = c.length * t.mark := by rw [← Nat.add_mul, List.count_true_add_count_false]

theorem nominal_le_of_mem_allCandidates {t : Timing} (h : t.space ≤ t.mark) {c : Bits} (hc : c ∈ allCandidates) :
    nominal t c ≤ 3 * t.mark :=
  (nominal_le_length_mul_mark h c).trans (Nat.mul_le_mul_right _ (mem_allCandidates_iff.mp hc).2)

/-! ### RECON reads nothing that it writes (R169) -/

theorem code_bounds (r : ReconResult) : 1 ≤ r.code.toNat ∧ r.code.toNat ≤ 6 := by cases r <;> decide

theorem reconReport_reported (f : Frame) (r : ReconReport) (s : State) :
    reconReport f (reported r s) = reconReport f s := rfl

theorem reported_reported (r : ReconReport) (s : State) : reported r (reported r s) = reported r s := rfl

/-! ### A frame without ambiguous durations is one chunk (R152) -/

theorem foldl_extendSegments_chunk {t : Timing} {ds : List Nat} (h : ∀ d ∈ ds, classify t d ≠ .ambiguous) (bits : Bits)
    (rest : List Segment) :
    ds.foldl (extendSegments t) (.chunk bits :: rest)
      = .chunk (bits ++ ds.map fun d => decide (classify t d = .mark)) :: rest := by
  induction ds generalizing bits with
  | nil => simp
  | cons d ds ih =>
    obtain ⟨hd, hds⟩ := List.forall_mem_cons.mp h
    rw [List.foldl_cons, extendSegments_classified hd]
    exact (ih hds _).trans (by simp)

theorem segments_of_classified {t : Timing} {ds : List Nat} (hne : ds ≠ []) (h : ∀ d ∈ ds, classify t d ≠ .ambiguous) :
    segments t ds = [.chunk (ds.map fun d => decide (classify t d = .mark))] := by
  cases ds with
  | nil => exact absurd rfl hne
  | cons d ds =>
    obtain ⟨hd, hds⟩ := List.forall_mem_cons.mp h
    have hfirst : extendSegments t [] d = [.chunk [decide (classify t d = .mark)]] := extendSegments_classified hd []
    rw [segments, List.foldl_cons, hfirst, foldl_extendSegments_chunk hds]
    rfl

/-! ### What RECON finds in DBUF after ENC (R168, R195) -/

/-- The state after an ENC past its checks (R197). -/
def encoded (s : State) : State := { s with dbuf := (bsBits s).map (canon s), done := true }

section RoundTrip

variable {s : State}

/-- A canonical duration is classified as its bit. -/
theorem classify_canon (h : CfgLegal s) (b : Bool) :
    classify s.timing (canon s b).toNat = if b then .mark else .space := by
  cases b with
  | true => exact classify_of_mark_le (t := s.timing) le_rfl (Nat.le_add_right _ _)
  | false => exact classify_space ((cfgOk_iff s).mpr h)

/-- The encoded string is read back as one chunk. -/
theorem segmentsOf_encoded (h : CfgLegal s) (hne : bsBits s ≠ []) : segmentsOf (encoded s) = [.chunk (bsBits s)] := by
  have hdurations : (encoded s).dbuf.map (·.toNat) = (bsBits s).map fun b => (canon s b).toNat := List.map_map
  have hclassified : ∀ d ∈ (bsBits s).map (fun b => (canon s b).toNat), classify s.timing d ≠ .ambiguous := by
    rw [List.forall_mem_map]
    intro b _
    rw [classify_canon h]
    cases b <;> decide
  have hbits : ((bsBits s).map fun b => (canon s b).toNat).map (fun d => decide (classify s.timing d = .mark)) = bsBits s := by
    rw [List.map_map]
    refine (List.map_congr_left fun b _ => ?_).trans (List.map_id _)
    rw [Function.comp, classify_canon h]
    cases b <;> rfl
  have hsegments := segments_of_classified (mt List.map_eq_nil_iff.mp hne) hclassified
  rw [hbits] at hsegments
  rw [segmentsOf, hdurations]
  exact hsegments

theorem runSums_encoded (h : CfgLegal s) (hne : bsBits s ≠ []) : runSums (encoded s) none (encoded s).dbuf = [] := by
  rw [← wrongLengths_segmentsOf, segmentsOf_encoded h hne]
  rfl

/-- There is one combination, the string itself. -/
theorem attempts_encoded (h : CfgLegal s) (hne : bsBits s ≠ []) : attempts (encoded s) = [bsBits s] := by
  have hone : combinations (encoded s).timing [.chunk (bsBits s)] = [bsBits s ++ []] := rfl
  rw [List.append_nil, ← segmentsOf_encoded h hne] at hone
  exact hone

/-- Without runs none of the three early ends is possible, MAXCOMB being at least 1. -/
theorem enumerates_encoded (h : CfgLegal s) (hne : bsBits s ≠ []) (hmax : 1 ≤ s.maxComb.toNat) :
    Enumerates (encoded s) := by
  refine ⟨h, fun hamb => ?ambiguous, fun ⟨w, hw, _⟩ => ?range, ?product⟩
  case ambiguous =>
    obtain ⟨-, hruns⟩ := (allAmbiguous_iff _).mp hamb
    rw [runSums_encoded h hne] at hruns
    exact absurd hruns (by decide)
  case range =>
    rw [runSums_encoded h hne] at hw
    exact absurd hw List.not_mem_nil
  case product =>
    rw [← attempts_length, attempts_encoded h hne]
    exact hmax

end RoundTrip

/-! ### The obligations -/

/-- Settles O37: the length is checked before the protocol, and NONE checks nothing else. -/
theorem validatorChecksLengthFirst : Obligations.ValidatorChecksLengthFirst := by
  refine ⟨fun f b h => validate_of_length_ne h, fun b => ?mode⟩
  case mode =>
    have hvstat : vstatOf 0 0 true = 0x700 := by decide
    rw [← hvstat]
    exact if_pos rfl

/-- Settles O45: a run beyond the bound is more than TOL above every candidate's nominal length. -/
theorem noCandidateBeyondRangeBound : Obligations.NoCandidateBeyondRangeBound := by
  intro t w hok hw
  obtain ⟨-, hlt, -⟩ := (timing_ok_iff t).mp hok
  refine List.filter_eq_nil_iff.mpr fun c hc hnear => ?_
  have hnominal := nominal_le_of_mem_allCandidates hlt.le hc
  have hwindow := (near_iff_window _ _ _).mp hnear
  omega

/-- Settles O41: RECON past its checks writes a report and DONE. -/
theorem reconCompletes : Obligations.ReconCompletes := fun s f hcfg hframe =>
  have hcode := code_bounds (reconReport f s).result
  ⟨reported (reconReport f s) s, exec_recon_of_legal hcfg hframe, rfl, hcode.1, hcode.2, rfl⟩

/-- Settles O49: the second RECON makes the same report, and writing it again changes nothing. -/
theorem reconIsRepeatable : Obligations.ReconIsRepeatable := by
  intro s f hcfg hframe
  refine ⟨reported (reconReport f s) s, exec_recon_of_legal hcfg hframe, ?again⟩
  case again =>
    have hsecond := exec_recon_of_legal (s := reported (reconReport f s) s) hcfg hframe
    rwa [reconReport_reported, reported_reported] at hsecond

/-- Settles O48: after ENC the only combination is the string itself, which validates. -/
theorem encReconRoundTrip : Obligations.EncReconRoundTrip := by
  intro s f hcfg hframe hbsLen hmax hpass
  obtain ⟨hflen, hpos, hle⟩ := frameConfig_length ((frameConfig_eq_frameOf s).trans hframe)
  have hlen : (bsBits s).length = f.length := by rw [bsBits_length, hbsLen, hflen]
  have hfits : s.bsLen.toNat ≤ 40 := by rw [← bsBits_length, hlen]; exact hle
  have hne : bsBits s ≠ [] := List.length_pos_iff.mp (hlen ▸ hpos)
  have hattempt : (attempts (encoded s))[0]? = some (bsBits s) := by rw [attempts_encoded hcfg hne]; rfl
  obtain ⟨u, hexec, -, hfirst, -⟩ :=
    reconFindsFirstCombination (encoded s) f (enumerates_encoded hcfg hne hmax) hframe
  obtain ⟨hrres, hulen, -, hubits, htried, -⟩ := hfirst 0 (bsBits s) hattempt ⟨hlen, hpass⟩ (by simp)
  refine ⟨encoded s, u, exec_enc_of_le hcfg hfits, hexec, hrres, hulen.trans hbsLen.symm, hubits, ?runs,
    BitVec.eq_of_toNat_eq htried⟩
  case runs =>
    have hu : reported (reconReport f (encoded s)) (encoded s) = u :=
      Host.Outcome.next.inj ((exec_recon_of_legal (s := encoded s) hcfg hframe).symm.trans hexec)
    obtain ⟨-, -, hnruns⟩ := reconReport_classify f (encoded s)
    rw [runSums_encoded hcfg hne] at hnruns
    rw [← hu]
    exact congrArg (BitVec.ofNat 7) hnruns

end Sys2Proof.Proofs.Reconstruction

/-! The pseudo-instructions LI and LDBS (spec/30_encoding.md R91): commands executed one after the other, the two halves of a
register, and the statement. -/

namespace Sys2Proof.Proofs.Pseudos

open Sys2Proof Sys2Proof.Machine Sys2Proof.Claims Sys2Proof.Proofs.RegisterAccess Sys2Proof.Proofs.Reconstructor

/-! ### Registers 0 to 15 as what a sequence writes -/

/-- `s` with registers 0 to 15 taken from `t`. -/
def withRw (s t : State) : State :=
  { s with
    ctrl := t.ctrl, markLen := t.markLen, spaceLen := t.spaceLen, tol := t.tol, frameLen := t.frameLen,
    minCls := t.minCls, maxComb := t.maxComb, startLo := t.startLo, startHi := t.startHi, rgap0 := t.rgap0,
    rgap1 := t.rgap1, rtol := t.rtol, bsLo := t.bsLo, bsHi := t.bsHi, bsLen := t.bsLen, lastTs := t.lastTs }

theorem sameOutsideRw_iff (s t : State) : SameOutsideRw s t ↔ t = withRw s t := Iff.rfl

theorem withRw_withRw (s t u : State) : withRw (withRw s t) u = withRw s u := rfl

theorem sameOutsideRw_trans {s t u : State} (hst : SameOutsideRw s t) (htu : SameOutsideRw t u) : SameOutsideRw s u := by
  rw [sameOutsideRw_iff] at *
  calc u = withRw t u := htu
    _ = withRw (withRw s t) u := congrArg (withRw · u) hst
    _ = withRw s u := withRw_withRw s t u

/-! ### Commands executed one after the other -/

/-- The commands take registers 0 to 15 to these values and change nothing else. -/
def Loads (is : List Instr) (s : State) (fields : List Nat) : Prop :=
  ∃ t, runAll is s = .next t ∧ rwFields t = fields ∧ SameOutsideRw s t

theorem runAll_cons {i : Instr} {s t : State} (h : exec i s = .next t) (is : List Instr) :
    runAll (i :: is) s = runAll is t := by rw [runAll, h]

theorem runAll_append {is : List Instr} {s t : State} (h : runAll is s = .next t) (js : List Instr) :
    runAll (is ++ js) s = runAll js t := by
  induction is generalizing s with
  | nil =>
    cases h
    rfl
  | cons i is ih =>
    obtain ⟨u, hu⟩ := exec_answers_next i s
    rw [runAll_cons hu] at h
    rw [List.cons_append, runAll_cons hu]
    exact ih h

theorem loads_append {is js : List Instr} {s : State} {fields fields' : List Nat} (his : Loads is s fields)
    (hjs : ∀ t, rwFields t = fields → Loads js t fields') : Loads (is ++ js) s fields' := by
  obtain ⟨t, hrun, hfields, hsame⟩ := his
  obtain ⟨u, hrun', hfields', hsame'⟩ := hjs t hfields
  exact ⟨u, (runAll_append hrun js).trans hrun', hfields', sameOutsideRw_trans hsame hsame'⟩

theorem loads_single {i : Instr} {s t : State} {fields : List Nat} (h : exec i s = .next t) (hfields : rwFields t = fields)
    (hsame : SameOutsideRw s t) : Loads [i] s fields :=
  ⟨t, runAll_cons h [], hfields, hsame⟩

/-! ### The two halves of a register (R110, R111) -/

section Halves

variable {r v : Nat}

theorem toNat_registerNumber (h : r ≤ 15) : (BitVec.ofNat 6 r).toNat = r := toNat_ofNat_of_lt (by omega)

theorem loads_wr (hr : r ≤ 15) (hv : v < 2 ^ 16) (s : State) :
    Loads [.wr (BitVec.ofNat 6 r) (BitVec.ofNat 16 v)] s ((rwFields s).set r (v % 2 ^ rwWidths.getD r 0)) := by
  have hnum := toNat_registerNumber hr
  obtain ⟨hstores, -⟩ := wrStoresLowHalf
  obtain ⟨t, hexec, hfields, hsame⟩ := hstores (BitVec.ofNat 6 r) (BitVec.ofNat 16 v) s (hnum.trans_le hr)
  rw [hnum, toNat_ofNat_of_lt hv] at hfields
  exact loads_single hexec hfields hsame

theorem loads_wrh (hr : r ≤ 15) (hv : v < 2 ^ 16) (s : State) :
    Loads [.wrh (BitVec.ofNat 6 r) (BitVec.ofNat 16 v)] s
      ((rwFields s).set r ((v * 2 ^ 16 + (rwFields s).getD r 0 % 2 ^ 16) % 2 ^ rwWidths.getD r 0)) := by
  have hnum := toNat_registerNumber hr
  obtain ⟨hstores, -⟩ := wrhStoresHighHalf
  obtain ⟨t, hexec, hfields, hsame⟩ := hstores (BitVec.ofNat 6 r) (BitVec.ofNat 16 v) s (hnum.trans_le hr)
  rw [hnum, toNat_ofNat_of_lt hv] at hfields
  exact loads_single hexec hfields hsame

/-- A register of any width holds the masked value once both of its halves are written. -/
theorem halves_mod (v w : Nat) : (v / 2 ^ 16 * 2 ^ 16 + v % 2 ^ 16 % 2 ^ w % 2 ^ 16) % 2 ^ w = v % 2 ^ w := by
  rcases Nat.le_total w 16 with hw | hw
  · have hdvd : 2 ^ w ∣ 2 ^ 16 := Nat.pow_dvd_pow 2 hw
    have hlt : v % 2 ^ 16 % 2 ^ w < 2 ^ 16 := (Nat.mod_le _ _).trans_lt (Nat.mod_lt _ (by decide))
    rw [Nat.mod_eq_of_lt hlt, Nat.add_mod_mod, Nat.div_add_mod']
  · have hlt : v % 2 ^ 16 < 2 ^ w := (Nat.mod_lt _ (by decide)).trans_le (Nat.pow_le_pow_right two_pos hw)
    rw [Nat.mod_eq_of_lt hlt, Nat.mod_mod, Nat.div_add_mod']

theorem ofNat_mod_two_pow (n x : Nat) : BitVec.ofNat n (x % 2 ^ n) = BitVec.ofNat n x := by
  apply BitVec.eq_of_toNat_eq
  rw [BitVec.toNat_ofNat, BitVec.toNat_ofNat, Nat.mod_mod]

/-- WR of the low half, then WRH of the high half. -/
theorem loads_wr_wrh (hr : r ≤ 15) (hv : v < 2 ^ 32) (s : State) :
    Loads [.wr (BitVec.ofNat 6 r) (BitVec.ofNat 16 v), .wrh (BitVec.ofNat 6 r) (BitVec.ofNat 16 (v / 2 ^ 16))] s
      ((rwFields s).set r (v % 2 ^ rwWidths.getD r 0)) := by
  have hlow := loads_wr hr (Nat.mod_lt v (by decide : 0 < 2 ^ 16)) s
  rw [ofNat_mod_two_pow] at hlow
  refine loads_append hlow fun t ht => ?_
  have hlen : r < (rwFields s).length := Nat.lt_succ_of_le hr
  have hhigh := loads_wrh hr (Nat.div_lt_of_lt_mul hv : v / 2 ^ 16 < 2 ^ 16) t
  rw [ht, List.set_set, List.getD_eq_getElem?_getD, List.getElem?_set_self hlen, Option.getD_some, halves_mod] at hhigh
  exact hhigh

/-! ### The expansions (R91) -/

theorem loads_expandLi (hr : r ≤ 15) (hv : v < 2 ^ 32) (s : State) :
    ∃ is, expandLi r v = some is ∧ Loads is s ((rwFields s).set r (v % 2 ^ rwWidths.getD r 0)) := by
  have hr' : r ≤ 63 := by omega
  by_cases hshort : v < 2 ^ 16
  · exact ⟨_, if_pos ⟨hr', hshort⟩, loads_wr hr hshort s⟩
  · exact ⟨_, (if_neg fun h => hshort h.2).trans (if_pos ⟨hr', hv⟩), loads_wr_wrh hr hv s⟩

/-- The last two commands of LDBS write BS_HI and BS_LEN (R34). -/
theorem loads_bsHi_bsLen {hi L : Nat} (hhi : hi < 2 ^ 8) (hL : L ≤ 63) (s : State) :
    Loads [.wr 13 (BitVec.ofNat 16 hi), .wr 14 (BitVec.ofNat 16 L)] s (((rwFields s).set 13 hi).set 14 L) := by
  have hfirst := loads_wr (r := 13) (by decide) (hhi.trans (by decide)) s
  have hwidth : hi % 2 ^ rwWidths.getD 13 0 = hi := Nat.mod_eq_of_lt hhi
  rw [hwidth] at hfirst
  refine loads_append hfirst fun t ht => ?_
  have hsecond := loads_wr (r := 14) (v := L) (by decide) (by omega) t
  have hwidth' : L % 2 ^ rwWidths.getD 14 0 = L := Nat.mod_eq_of_lt (Nat.lt_succ_of_le hL)
  rw [hwidth', ht] at hsecond
  exact hsecond

theorem loads_ldbs {L : Nat} (hv : v < 2 ^ 40) (hL : L ≤ 63) (s : State) :
    ∃ is, (Pseudo.ldbs v L).expand = some is
      ∧ Loads is s ((((rwFields s).set 12 (v % 2 ^ 32)).set 13 (v / 2 ^ 32)).set 14 L) := by
  obtain ⟨is, hexpand, hloads⟩ := loads_expandLi (r := 12) (by decide) (Nat.mod_lt v (by decide : 0 < 2 ^ 32)) s
  have hwidth : v % 2 ^ 32 % 2 ^ rwWidths.getD 12 0 = v % 2 ^ 32 := Nat.mod_mod v (2 ^ 32)
  rw [hwidth] at hloads
  have hrest := loads_bsHi_bsLen (Nat.div_lt_of_lt_mul hv : v / 2 ^ 32 < 2 ^ 8) hL
  refine ⟨_, ?expands, loads_append hloads fun t ht => ht ▸ hrest t⟩
  case expands => rw [Pseudo.expand, if_pos ⟨hv, hL⟩, hexpand, Option.map_some]

end Halves

/-! ### The obligation -/

/-- Settles O18: LI writes the halves its value needs, and LDBS loads BS_LO as LI does, then BS_HI and BS_LEN. -/
theorem loadPseudosLoad : Obligations.LoadPseudosLoad := by
  refine ⟨fun r v s hr hv => ?li, fun v L s hv hL => ?ldbs⟩
  case li =>
    obtain ⟨is, hexpand, t, hloads⟩ := loads_expandLi hr hv s
    exact ⟨is, t, hexpand, hloads⟩
  case ldbs =>
    obtain ⟨is, hexpand, t, hloads⟩ := loads_ldbs hv hL s
    exact ⟨is, t, hexpand, hloads⟩

end Sys2Proof.Proofs.Pseudos

/-! What each command can do to the state, once for all commands: which state each of them writes (spec/10_state.md R54,
spec/20_memory.md R61, R62), and that a step from a legal state ends in a legal state (Safety.lean). -/

namespace Sys2Proof.Proofs.Effects

open Sys2Proof Sys2Proof.Machine Sys2Proof.Claims
open Sys2Proof.Proofs.Control Sys2Proof.Proofs.RegisterAccess Sys2Proof.Proofs.Input
open Sys2Proof.Proofs.WindowComparator Sys2Proof.Proofs.Classifier Sys2Proof.Proofs.Reconstructor
open Sys2Proof.Proofs.Validator Sys2Proof.Proofs.Encoder Sys2Proof.Proofs.Reconstruction Sys2Proof.Proofs.Pseudos

/-! ### The next states of every command -/

/-- The states in which a command executed from `s` can leave the block, with what its checks say of `s`. -/
inductive Effect (s : State) : Instr → State → Prop where
  /-- An error of a command that has one (R211). -/
  | failed {i : Instr} (c : ErrorCode) (hfails : i.mnemonic ∉ [.nop, .clrd, .sett, .wincmp]) :
      Effect s i (raiseError c s)
  /-- An error of a read (R215). -/
  | failedRead {i : Instr} (c : ErrorCode) (hreads : i.mnemonic ∈ [.rd, .rdd, .rdf]) : Effect s i (raiseReadError c s)
  /-- A read's response (R82). -/
  | answered {i : Instr} (v : Word) (hreads : i.mnemonic ∈ [.rd, .rdd, .rdf]) : Effect s i (respond v s)
  | nop : Effect s .nop s
  | rst : Effect s .rst (resetBlock s)
  | clrd : Effect s .clrd { s with dbuf := [] }
  | clrst : Effect s .clrst (acknowledge s)
  | wr (r : BitVec 6) (imm : BitVec 16) (u : State) : Effect s (.wr r imm) (withRw s u)
  | wrh (r : BitVec 6) (imm : BitVec 16) (u : State) : Effect s (.wrh r imm) (withRw s u)
  | pushd (d : Ticks) (hroom : s.dbuf.length < s.cfg.nDur) : Effect s (.pushd d) { s with dbuf := s.dbuf ++ [d] }
  | pusht (u d : Ticks) (hroom : s.dbuf.length < s.cfg.nDur) :
      Effect s (.pusht u) { s with dbuf := s.dbuf ++ [d], lastTs := u }
  | sett (u : Ticks) : Effect s (.sett u) { s with lastTs := u }
  | armed (d : Ticks) : Effect s (.wincmp d) (armDetector s)
  | idle (d : Ticks) : Effect s (.wincmp d) (goIdle d s)
  | classify (d : Ticks) (c : BitVec 2) : Effect s (.classify d) { s with cls := c }
  | recon (f : Frame) (hcfg : CfgLegal s) (hframe : frameOf s = some f) : Effect s .recon (reported (reconReport f s) s)
  | val (f : Frame) :
      Effect s .val { s with
        vstat := (validate f (bsBits s)).vstat, csum := (validate f (bsBits s)).csum, done := true }
  | enc (hlen : s.bsLen.toNat ≤ 40) : Effect s .enc (encoded s)

section Exec

variable {s t : State}

/-- A register write raises an error or writes among registers 0 to 15. -/
theorem writeRegister_effect {i : Instr} (hfails : i.mnemonic ∉ [.nop, .clrd, .sett, .wincmp])
    (hwrites : ∀ u, Effect s i (withRw s u)) (r : BitVec 6) (value : Word → Word) :
    Effect s i (writeRegister r value s) := by
  rcases writeRegister_cases r value s with ⟨-, h⟩ | ⟨-, -, h⟩ | ⟨q, -, h⟩
  · exact h ▸ .failed .badReg hfails
  · exact h ▸ .failed .ro hfails
  · have hrw : writeRw q (value (readRw s q)) s = withRw s _ := sameOutsideRw_writeRw q _ s
    rw [h, hrw]
    exact hwrites _

/-- A buffer read, of either buffer, raises its error or responds. -/
theorem readBuffer_effect {i : Instr} (hreads : i.mnemonic ∈ [.rd, .rdd, .rdf]) (element : Option Word) (s : State) :
    Effect s i (readBuffer element s) := by
  rcases readBuffer_cases element s with ⟨-, h⟩ | ⟨v, -, h⟩
  · exact h ▸ .failedRead .index hreads
  · exact h ▸ .answered v hreads

theorem exec_rd_effect (r : BitVec 6) (s : State) : ∃ t, exec (.rd r) s = .next t ∧ Effect s (.rd r) t := by
  have hreads : (Instr.rd r).mnemonic ∈ [.rd, .rdd, .rdf] := List.mem_cons_self
  rw [exec_rd, execRd]
  cases RegName.ofNumber r with
  | undefined => exact ⟨_, rfl, .failedRead .badReg hreads⟩
  | rw q => exact ⟨_, rfl, .answered _ hreads⟩
  | ro q => exact ⟨_, rfl, .answered _ hreads⟩

theorem lt_of_not_dbufFull (h : ¬ dbufFull s = true) : s.dbuf.length < s.cfg.nDur := by
  rw [dbufFull, decide_eq_true_iff] at h
  exact Nat.lt_of_not_le h

/-- Every command's next state is one of its effects. -/
theorem exec_effect (i : Instr) (s : State) : ∃ t, exec i s = .next t ∧ Effect s i t := by
  cases i with
  | nop => exact ⟨_, exec_nop s, .nop⟩
  | rst => exact ⟨_, exec_rst s, .rst⟩
  | clrd => exact ⟨_, exec_clrd s, .clrd⟩
  | clrst => exact ⟨_, exec_clrst s, .clrst⟩
  | wr r imm => exact ⟨_, exec_wr r imm s, writeRegister_effect (by simp [Instr.mnemonic]) (.wr r imm) r _⟩
  | wrh r imm => exact ⟨_, exec_wrh r imm s, writeRegister_effect (by simp [Instr.mnemonic]) (.wrh r imm) r _⟩
  | rd r => exact exec_rd_effect r s
  | rdd x => exact ⟨_, exec_rdd x s, readBuffer_effect (by simp [Instr.mnemonic]) _ s⟩
  | rdf x => exact ⟨_, exec_rdf x s, readBuffer_effect (by simp [Instr.mnemonic]) _ s⟩
  | pushd d =>
    refine ⟨_, exec_pushd d s, ?_⟩
    split_ifs with hfull
    · exact .failed .full (by simp [Instr.mnemonic])
    · exact .pushd d (lt_of_not_dbufFull hfull)
  | pusht u =>
    refine ⟨_, exec_pusht u s, ?_⟩
    split_ifs with hfull
    · exact .failed .full (by simp [Instr.mnemonic])
    · exact .pusht u _ (lt_of_not_dbufFull hfull)
  | sett u => exact ⟨_, exec_sett u s, .sett u⟩
  | wincmp d =>
    by_cases hwin : s.startLo.toNat ≤ d.toNat ∧ d.toNat ≤ s.startHi.toNat
    · exact ⟨_, exec_wincmp_of_inside hwin, .armed d⟩
    · exact ⟨_, exec_wincmp_of_outside hwin, .idle d⟩
  | classify d =>
    by_cases hcfg : CfgLegal s
    · exact ⟨_, exec_classify_of_cfgLegal hcfg d, .classify d _⟩
    · exact ⟨_, exec_classify_of_not_cfgLegal hcfg d, .failed .cfg (by simp [Instr.mnemonic])⟩
  | recon =>
    by_cases hcfg : CfgLegal s
    · cases hframe : frameOf s with
      | none => exact ⟨_, exec_recon_of_frameOf_eq_none hframe, .failed .cfg (by decide)⟩
      | some f => exact ⟨_, exec_recon_of_legal hcfg hframe, .recon f hcfg hframe⟩
    · exact ⟨_, exec_recon_of_not_cfgLegal hcfg, .failed .cfg (by decide)⟩
  | val =>
    cases hframe : frameOf s with
    | none => exact ⟨_, exec_val_of_frameOf_eq_none hframe, .failed .cfg (by decide)⟩
    | some f => exact ⟨_, exec_val_of_frameOf_eq_some hframe, .val f⟩
  | enc =>
    by_cases hcfg : CfgLegal s
    · by_cases hlen : s.bsLen.toNat ≤ 40
      · exact ⟨_, exec_enc_of_le hcfg hlen, .enc hlen⟩
      · exact ⟨_, exec_enc_of_lt hcfg (Nat.lt_of_not_le hlen), .failed .len (by decide)⟩
    · exact ⟨_, exec_enc_of_not_cfgLegal hcfg, .failed .cfg (by decide)⟩

theorem effect_of_exec {i : Instr} (h : exec i s = .next t) : Effect s i t := by
  obtain ⟨u, hu, heffect⟩ := exec_effect i s
  rwa [Host.Outcome.next.inj (hu.symm.trans h)] at heffect

end Exec

/-! ### Who writes what: the effects named for a field are its writers, every other leaves it as it was -/

section Writers

variable {i : Instr} {s t : State}

theorem effect_keeps_hostSide (h : Effect s i t) : t.cfg = s.cfg ∧ t.inputs = s.inputs := by
  cases h <;> exact ⟨rfl, rfl⟩

theorem effect_keeps_configuration (h : Effect s i t) (hm : i.mnemonic ∉ [.wr, .wrh, .rst]) :
    (rwFields t).take 12 = (rwFields s).take 12 := by
  cases h with
  | wr | wrh | rst => simp [Instr.mnemonic] at hm
  | _ => rfl

theorem effect_keeps_bs (h : Effect s i t) (hm : i.mnemonic ∉ [.wr, .wrh, .rst, .recon]) :
    t.bsLo = s.bsLo ∧ t.bsHi = s.bsHi ∧ t.bsLen = s.bsLen := by
  cases h with
  | wr | wrh | rst | recon => simp [Instr.mnemonic] at hm
  | _ => exact ⟨rfl, rfl, rfl⟩

theorem effect_keeps_lastTs (h : Effect s i t) (hm : i.mnemonic ∉ [.wr, .wrh, .rst, .pusht, .sett]) : t.lastTs = s.lastTs := by
  cases h with
  | wr | wrh | rst | pusht | sett => simp [Instr.mnemonic] at hm
  | _ => rfl

theorem effect_keeps_done (h : Effect s i t) (hm : i.mnemonic ∉ [.recon, .val, .enc, .clrst, .rst]) : t.done = s.done := by
  cases h with
  | recon | val | enc | clrst | rst => simp [Instr.mnemonic] at hm
  | _ => rfl

/-- The four commands without an error keep ERR and ERRCODE. -/
theorem effect_keeps_errors (h : Effect s i t) (hm : i.mnemonic ∈ [.nop, .clrd, .sett, .wincmp]) :
    t.err = s.err ∧ t.errCode = s.errCode := by
  have hreads_fails : ∀ m ∈ [Mnemonic.rd, .rdd, .rdf], m ∉ [Mnemonic.nop, .clrd, .sett, .wincmp] := by decide
  cases h with
  | failed c hfails => exact absurd hm hfails
  | failedRead c hreads => exact absurd hm (hreads_fails _ hreads)
  | rst | clrst => simp [Instr.mnemonic] at hm
  | _ => exact ⟨rfl, rfl⟩

/-- An error never replaces a recorded one (R211). -/
theorem effect_keeps_recorded_error (h : Effect s i t) (hm : i.mnemonic ∉ [.clrst, .rst]) :
    (s.err = true → t.err = true) ∧ (s.errCode ≠ 0 → t.errCode = s.errCode) := by
  cases h with
  | failed | failedRead => exact ⟨fun _ => rfl, fun hcode => if_neg hcode⟩
  | clrst | rst => simp [Instr.mnemonic] at hm
  | _ => exact ⟨id, fun _ => rfl⟩

theorem effect_keeps_detector (h : Effect s i t) (hm : i.mnemonic ∉ [.wincmp, .rst]) :
    t.armed = s.armed ∧ t.repeatGap = s.repeatGap ∧ t.brk = s.brk := by
  cases h with
  | armed | idle | rst => simp [Instr.mnemonic] at hm
  | _ => exact ⟨rfl, rfl, rfl⟩

theorem effect_keeps_results (h : Effect s i t) (hm : i.mnemonic ∉ [.recon, .rst]) :
    t.rres = s.rres ∧ t.fb = s.fb ∧ t.ncls = s.ncls ∧ t.nruns = s.nruns ∧ t.ncomb = s.ncomb ∧ t.ntried = s.ntried := by
  cases h with
  | recon | rst => simp [Instr.mnemonic] at hm
  | _ => exact ⟨rfl, rfl, rfl, rfl, rfl, rfl⟩

theorem effect_keeps_verdict (h : Effect s i t) (hm : i.mnemonic ∉ [.recon, .val, .rst]) :
    t.vstat = s.vstat ∧ t.csum = s.csum := by
  cases h with
  | recon | val | rst => simp [Instr.mnemonic] at hm
  | _ => exact ⟨rfl, rfl⟩

theorem effect_keeps_cls (h : Effect s i t) (hm : i.mnemonic ∉ [.classify, .rst]) : t.cls = s.cls := by
  cases h with
  | classify | rst => simp [Instr.mnemonic] at hm
  | _ => rfl

theorem effect_keeps_dbuf (h : Effect s i t) (hm : i.mnemonic ∉ [.pushd, .pusht, .enc, .clrd, .rst]) : t.dbuf = s.dbuf := by
  cases h with
  | pushd | pusht | enc | clrd | rst => simp [Instr.mnemonic] at hm
  | _ => rfl

theorem effect_keeps_rsp (h : Effect s i t) (hm : i.mnemonic ∉ [.rd, .rdd, .rdf, .rst]) : t.rsp = s.rsp := by
  cases h with
  | failedRead c hreads => exact absurd (List.mem_append_left [Mnemonic.rst] hreads) hm
  | answered v hreads => exact absurd (List.mem_append_left [Mnemonic.rst] hreads) hm
  | rst => simp [Instr.mnemonic] at hm
  | _ => rfl

theorem effect_keeps_inReset (h : Effect s i t) (hm : i.mnemonic ≠ .rst) : t.inReset = s.inReset := by
  cases h with
  | rst => exact absurd rfl hm
  | _ => rfl

end Writers

/-- Settles O51: each clause names the writers of its fields. -/
theorem onlyTheirCommandsWrite : Obligations.OnlyTheirCommandsWrite := by
  intro i s t hexec
  have h := effect_of_exec hexec
  obtain ⟨hcfg, hinputs⟩ := effect_keeps_hostSide h
  exact ⟨hcfg, hinputs, effect_keeps_configuration h, effect_keeps_bs h, effect_keeps_lastTs h, effect_keeps_done h,
    effect_keeps_errors h, effect_keeps_recorded_error h, effect_keeps_detector h, effect_keeps_results h, effect_keeps_verdict h,
    effect_keeps_cls h, effect_keeps_dbuf h, effect_keeps_rsp h, effect_keeps_inReset h⟩

end Sys2Proof.Proofs.Effects

/-! The legal states (Safety.lean): each of the five groups of relations through the updates that reach its fields, RECON's
report in numbers, and that every step keeps a legal state. -/

namespace Sys2Proof.Proofs.Invariant

open Sys2Proof Sys2Proof.Machine Sys2Proof.Claims
open Sys2Proof.Proofs.WindowComparator Sys2Proof.Proofs.Reconstructor Sys2Proof.Proofs.Validator
open Sys2Proof.Proofs.Encoder Sys2Proof.Proofs.Reconstruction Sys2Proof.Proofs.RegisterAccess Sys2Proof.Proofs.Effects

/-! ### The verdict's two words (R43, R44) -/

/-- CSUM's two differences are those of its two checksums (R44). -/
def CsumDifferences (csum : Word) : Prop :=
  csum.extractLsb' 16 8 = csum.extractLsb' 8 8 - csum.extractLsb' 0 8
    ∧ csum.extractLsb' 24 8 = csum.extractLsb' 0 8 - csum.extractLsb' 8 8

/-- The relations of a legal state's verdict, for the words VSTAT and CSUM alone. -/
def VerdictWords (vstat : BitVec 11) (csum : Word) : Prop :=
  (vstat.getLsbD 8 = false → vstat = 0) ∧ vstat.getLsbD 10 = vstat.getLsbD 9 ∧ CsumDifferences csum

theorem verdictLegal_iff (s : State) : s.VerdictLegal ↔ VerdictWords s.vstat s.csum := Iff.rfl

theorem csumDifferences_zero : CsumDifferences 0 := by unfold CsumDifferences; decide

theorem verdictWords_zero : VerdictWords 0 0 := ⟨fun _ => rfl, rfl, csumDifferences_zero⟩

/-- A computed VSTAT has LENOK set, and PROTOK and PASS alike. -/
theorem vstatOf_flags {mm0 mm1 : Nat} (p : Bool) (h0 : mm0 ≤ 8) (h1 : mm1 ≤ 8) :
    (vstatOf mm0 mm1 p).getLsbD 8 = true ∧ (vstatOf mm0 mm1 p).getLsbD 10 = (vstatOf mm0 mm1 p).getLsbD 9 := by
  simp only [BitVec.getLsbD, Nat.testBit_eq_decide_div_mod_eq, decide_eq_true_iff, decide_eq_decide, toNat_vstatOf p h0 h1]
  split_ifs <;> omega

/-- The difference of two checksums as CSUM's value counts it. -/
theorem toNat_sub_byte (x y : BitVec 8) : (x - y).toNat = (x.toNat + 256 - y.toNat) % 256 := by
  have hy := y.isLt
  rw [BitVec.toNat_sub]
  omega

/-- The checksum word's fields are the two checksums and their differences. -/
theorem csumDifferences_checksumWord (computed received : BitVec 8) :
    CsumDifferences ((computed - received) ++ (received - computed) ++ received ++ computed) := by
  have hnum := toNat_checksumWord computed received
  rw [← toNat_sub_byte, ← toNat_sub_byte] at hnum
  generalize ((computed - received) ++ (received - computed) ++ received ++ computed : Word) = csum at hnum
  have hcalc : csum.extractLsb' 0 8 = computed := BitVec.eq_of_toNat_eq (by rw [toNat_field]; omega)
  have hread : csum.extractLsb' 8 8 = received := BitVec.eq_of_toNat_eq (by rw [toNat_field]; omega)
  have hdiffRc : csum.extractLsb' 16 8 = received - computed := BitVec.eq_of_toNat_eq (by rw [toNat_field]; omega)
  have hdiffCr : csum.extractLsb' 24 8 = computed - received := BitVec.eq_of_toNat_eq (by rw [toNat_field]; omega)
  rw [CsumDifferences, hcalc, hread, hdiffRc, hdiffCr]
  exact ⟨rfl, rfl⟩

theorem verdictWords_vstatOf {mm0 mm1 : Nat} (p : Bool) (h0 : mm0 ≤ 8) (h1 : mm1 ≤ 8) {csum : Word}
    (hcsum : CsumDifferences csum) : VerdictWords (vstatOf mm0 mm1 p) csum := by
  obtain ⟨hlenok, hpass⟩ := vstatOf_flags p h0 h1
  exact ⟨fun h => absurd (hlenok.symm.trans h) (by decide), hpass, hcsum⟩

theorem verdictWords_validate (f : Frame) (b : Bits) : VerdictWords (validate f b).vstat (validate f b).csum := by
  by_cases hlen : b.length = f.length
  case neg =>
    rw [validate_of_length_ne hlen]
    exact verdictWords_zero
  case pos =>
    rw [validate, if_pos hlen]
    cases f.protocol with
    | none => exact verdictWords_vstatOf true (Nat.zero_le 8) (Nat.zero_le 8) csumDifferences_zero
    | nec =>
      refine verdictWords_vstatOf _ (halfMismatches_le b 0) ?_ csumDifferences_zero
      split_ifs
      · exact halfMismatches_le b 16
      · exact Nat.zero_le 8
    | dht22 => exact verdictWords_vstatOf _ (Nat.zero_le 8) (Nat.zero_le 8) (csumDifferences_checksumWord _ _)

/-! ### The report of a reconstruction (R155 to R166) -/

/-- What every visit keeps the whole search keeps. -/
theorem searchList_induction {f : Frame} {P : Search → Prop} (hvisit : ∀ b a, P a → P (a.visit f b)) {bs : List Bits}
    {a : Search} (h : P a) : P (searchList f bs a) := by
  induction bs generalizing a with
  | nil => exact h
  | cons b bs ih =>
    rw [searchList]
    split_ifs
    · exact hvisit b a h
    · exact ih (hvisit b a h)

theorem searchList_verdictWords (f : Frame) (bs : List Bits) :
    VerdictWords (searchList f bs Search.start).vstat (searchList f bs Search.start).csum := by
  refine searchList_induction (P := fun a => VerdictWords a.vstat a.csum) (fun b a ha => ?_) verdictWords_zero
  by_cases hlen : b.length = f.length
  · rw [visit_of_length_eq hlen]
    exact verdictWords_validate f b
  · rw [visit_of_length_ne hlen]
    exact ha

/-- No string is tried twice. -/
theorem searchList_tried_le (f : Frame) (bs : List Bits) (a : Search) :
    (searchList f bs a).tried ≤ a.tried + bs.length := by
  induction bs generalizing a with
  | nil => exact le_rfl
  | cons b bs ih =>
    have hvisit := visit_tried f b a
    have hrest := ih (a.visit f b)
    rw [searchList, List.length_cons]
    split_ifs <;> omega

/-- The report's search results: NTRIED is at most NCOMB, which fits its field, and the verdict's words are legal. -/
def SearchLegal (r : ReconReport) : Prop := r.ntried ≤ r.ncomb ∧ r.ncomb < 2 ^ 24 ∧ VerdictWords r.vstat r.csum

section Report

variable {s : State}

theorem searchLegal_cleared (s : State) (result : ReconResult) : SearchLegal (clearedReport s result) :=
  ⟨le_rfl, Nat.two_pow_pos 24, verdictWords_zero⟩

theorem searchLegal_counted (s : State) : SearchLegal (countedReport s) :=
  ⟨Nat.zero_le _, (Nat.min_le_right _ _).trans_lt (by decide), verdictWords_zero⟩

/-- The enumeration tries at most the product, which MAXCOMB bounds. -/
theorem searchLegal_finished (f : Frame) (hprod : productOf s ≤ s.maxComb.toNat) :
    SearchLegal (finishPhase s.minCls.toNat (countedReport s) (searchList f (attempts s) Search.start)) := by
  have htried := searchList_tried_le f (attempts s) Search.start
  have hmax : productOf s ≤ ncombMax := hprod.trans (Nat.le_pred_of_lt s.maxComb.isLt)
  obtain ⟨-, hncomb, -⟩ := searchLegal_counted s
  refine ⟨?_, hncomb, searchList_verdictWords f (attempts s)⟩
  calc (searchList f (attempts s) Search.start).tried
      ≤ 0 + (attempts s).length := htried
    _ = productOf s := by rw [Nat.zero_add, attempts_length]
    _ = (countedReport s).ncomb := (Nat.min_eq_left hmax).symm

theorem searchLegal_reconReport (f : Frame) (s : State) : SearchLegal (reconReport f s) := by
  by_cases hamb : AllAmbiguous s
  · rw [reconReport_of_allAmbiguous f hamb]
    exact searchLegal_cleared s _
  by_cases hlong : RunTooLong s
  · rw [reconReport_of_runTooLong f hamb hlong]
    exact searchLegal_cleared s _
  rw [reconReport_of_short_runs f hamb hlong]
  split_ifs with hprod
  · exact searchLegal_counted s
  · exact searchLegal_finished f (Nat.le_of_not_lt hprod)

end Report

/-! ### The updates that reach a relation -/

section Updates

variable {s : State}

theorem legal_reset : State.reset.Legal := by decide

/-- A reset leaves nothing of the state but the parameters. -/
theorem legal_resetBlock (h : s.cfg.legal) : (resetBlock s).Legal := by
  obtain ⟨-, hresets⟩ := legal_reset
  exact ⟨⟨h, Nat.zero_le _, Nat.zero_le _, rfl⟩, hresets⟩

theorem code_legal (c : ErrorCode) : c.code.toNat ≤ 8 ∧ c.code ≠ 0 := by cases c <;> decide

theorem errorsLegal_raiseError (h : s.ErrorsLegal) (c : ErrorCode) : (raiseError c s).ErrorsLegal := by
  obtain ⟨hlist, hne⟩ := code_legal c
  obtain ⟨hlist', -⟩ := h
  unfold State.ErrorsLegal
  rw [raiseError_errCode, raiseError_err]
  split_ifs with hcode
  · exact ⟨hlist, iff_of_true rfl hne⟩
  · exact ⟨hlist', iff_of_true rfl hcode⟩

/-- After an acknowledge no error is recorded. -/
theorem errorsLegal_acknowledge (s : State) : (acknowledge s).ErrorsLegal :=
  ⟨Nat.zero_le 8, iff_of_false Bool.false_ne_true fun hcode => hcode rfl⟩

theorem legal_raiseError (h : s.Legal) (c : ErrorCode) : (raiseError c s).Legal := by
  obtain ⟨hbuf, herr, hrest⟩ := h
  exact ⟨hbuf, errorsLegal_raiseError herr c, hrest⟩

/-- The response is in no relation. -/
theorem legal_raiseReadError (h : s.Legal) (c : ErrorCode) : (raiseReadError c s).Legal := legal_raiseError h c

theorem legal_rejectWord (h : s.Legal) (err : DecodeError) : (rejectWord err s).Legal := by
  unfold rejectWord
  split
  · exact legal_raiseError h _
  · split_ifs
    · exact legal_raiseReadError h _
    · exact legal_raiseError h _

/-- A new content of DBUF has only to fit it. -/
theorem legal_dbuf (h : s.Legal) {ds : List Ticks} (hds : ds.length ≤ s.cfg.nDur) : ({ s with dbuf := ds } : State).Legal := by
  obtain ⟨⟨hcfg, -, hfb⟩, hrest⟩ := h
  exact ⟨⟨hcfg, hds, hfb⟩, hrest⟩

theorem length_append_le {ds : List Ticks} {n : Nat} (h : ds.length < n) (d : Ticks) : (ds ++ [d]).length ≤ n := by
  rw [List.length_append]; exact h

/-- RECON writes the pattern of DBUF with its two counts, and a report whose search is legal. -/
theorem legal_recon {f : Frame} (h : s.Legal) (hcfg : CfgLegal s) (hframe : frameOf s = some f) :
    (reported (reconReport f s) s).Legal := by
  obtain ⟨hbuf, herr, -, hdet, -⟩ := h
  have ⟨hdepth, hdbuf, _⟩ := hbuf
  obtain ⟨u, hexec, -, -, -, hcounts, hfits⟩ := reconWritesFallbackPattern s f hbuf hcfg hframe
  obtain rfl : reported (reconReport f s) s = u :=
    Host.Outcome.next.inj ((exec_recon_of_legal hcfg hframe).symm.trans hexec)
  obtain ⟨htried, hncomb, hverdict⟩ := searchLegal_reconReport f s
  refine ⟨⟨hdepth, hdbuf, hfits.trans hdbuf, hcounts.symm⟩, herr, ⟨fun hseven => ?result, ?tried⟩, hdet,
    (verdictLegal_iff _).mpr hverdict⟩
  case result =>
    obtain ⟨-, hle⟩ := code_bounds (reconReport f s).result
    rw [← reported_rres (reconReport f s) s, hseven] at hle
    exact absurd hle (by decide)
  case tried => rwa [toNat_reported_ntried (htried.trans_lt hncomb), toNat_reported_ncomb hncomb]

/-- ENC writes at most 40 durations, and N_DUR is at least 40. -/
theorem legal_encoded (h : s.Legal) (hlen : s.bsLen.toNat ≤ 40) : (encoded s).Legal := by
  have ⟨⟨⟨hdepth, _⟩, _⟩, _⟩ := h
  refine legal_dbuf h (ds := (bsBits s).map (canon s)) ?_
  rw [List.length_map, bsBits_length]
  exact hlen.trans hdepth

/-- A verdict written by VAL is legal whatever the string. -/
theorem legal_val (h : s.Legal) (f : Frame) :
    ({ s with vstat := (validate f (bsBits s)).vstat, csum := (validate f (bsBits s)).csum, done := true } : State).Legal := by
  obtain ⟨hbuf, herr, hres, hdet, -⟩ := h
  exact ⟨hbuf, herr, hres, hdet, (verdictLegal_iff _).mpr (verdictWords_validate f (bsBits s))⟩

end Updates

/-! ### Every command, edge and step (R81, R87, R230) -/

section Steps

variable {s t : State}

theorem effect_keeps_legal {i : Instr} (hs : s.Legal) (h : Effect s i t) : t.Legal := by
  have ⟨⟨hdepth, _⟩, _⟩ := hs
  cases h with
  | failed c => exact legal_raiseError hs c
  | failedRead c => exact legal_raiseReadError hs c
  | rst => exact legal_resetBlock hdepth
  | clrd => exact legal_dbuf hs (Nat.zero_le _)
  | clrst =>
    obtain ⟨hbuf, -, hrest⟩ := hs
    exact ⟨hbuf, errorsLegal_acknowledge s, hrest⟩
  | pushd d hroom => exact legal_dbuf hs (length_append_le hroom d)
  | pusht u d hroom => exact legal_dbuf hs (length_append_le hroom d)
  | armed d =>
    obtain ⟨hbuf, herr, hres, -, hverdict⟩ := hs
    exact ⟨hbuf, herr, hres, fun _ => rfl, hverdict⟩
  | idle d =>
    obtain ⟨hbuf, herr, hres, -, hverdict⟩ := hs
    exact ⟨hbuf, herr, hres, fun h => absurd h Bool.false_ne_true, hverdict⟩
  | recon f hcfg hframe => exact legal_recon hs hcfg hframe
  | val f => exact legal_val hs f
  | enc hlen => exact legal_encoded hs hlen
  | answered | nop | wr | wrh | sett | classify => exact hs

theorem acceptWord_keeps_legal {w : Word} (hs : s.Legal) (h : acceptWord w s = .next t) : t.Legal := by
  rcases acceptWord_cases h with ⟨i, -, hexec⟩ | ⟨err, -, rfl⟩
  · exact effect_keeps_legal hs (effect_of_exec hexec)
  · exact legal_rejectWord hs err

theorem takeResponse_keeps_legal (hs : s.Legal) (ready : Bool) : (takeResponse ready s).Legal := by
  cases ready <;> exact hs

theorem clockEdge_keeps_legal {e : PortEdge} (hs : s.Legal) (h : clockEdge e s = .next t) : t.Legal := by
  have ⟨⟨hdepth, _⟩, _⟩ := hs
  rcases clockEdge_cases h with
    ⟨-, rfl⟩ | ⟨-, -, rfl⟩ | ⟨-, -, -, rfl⟩ | ⟨-, -, -, -, rfl⟩ | ⟨w, -, -, -, -, haccept⟩
  · exact legal_resetBlock hdepth
  · exact hs
  · exact takeResponse_keeps_legal hs e.rspReady
  · exact hs
  · exact acceptWord_keeps_legal hs haccept

end Steps

/-! ### The obligations -/

/-- Settles O52: a step holds the state or is a clock edge, and the list of edges is in no relation. -/
theorem stepKeepsLegalState : Obligations.StepKeepsLegalState := by
  intro s t hs hstep
  rcases step_cases hstep with ⟨-, rfl⟩ | ⟨e, rest, -, hedge⟩
  · exact hs
  · exact clockEdge_keeps_legal (s := { s with inputs := rest }) hs hedge

/-- Settles O53: the reset values, one relation after the other. -/
theorem resetStateIsLegal : Obligations.ResetStateIsLegal := legal_reset

end Sys2Proof.Proofs.Invariant
